-- ==== Sys2Proof/Word.lean ====
section
/-! DEFINITION. The widths the spec names (00_scope.md R9) and the small closed vocabularies of the output
line: its level, the half of a bit on it, and the colour of one LED. -/

namespace Sys2Proof

/-- `u8` (R9): a framebuffer byte, a colour channel, the brightness. -/
abbrev Byte := BitVec 8

/-- `u24` (R9, R45): a packed colour. -/
abbrev Packed := BitVec 24

/-- The 64-bit command word `W` on `cmd_word[63:0]` (R70). -/
abbrev CmdWord := BitVec 64

/-- The level of the output line `DOUT` (R17): not driven, driven low, driven high. -/
inductive Level where
  | z
  | l
  | h
deriving DecidableEq, Repr, Inhabited

/-- `PHASE` (R20): which half of the bit is on the wire. -/
inductive Phase where
  | hi
  | lo
deriving DecidableEq, Repr, Inhabited

/-- A wire symbol of level S (R9, R104 to R106). -/
inductive Sym where
  | t0
  | t1
  | reset
deriving DecidableEq, Repr, Inhabited

/-- The colour one LED displays, `LEDS[p]` (R26). -/
structure Rgb where
  red : Byte
  green : Byte
  blue : Byte
deriving DecidableEq, Repr, Inhabited

end Sys2Proof
end

