-- ==== Sys2Proof/Config.lean ====
section
/-! DEFINITION. What is fixed for the machine (10_state.md R24): the geometry constants of R5, the wire times
of R6, the parameters of R7 at the defaults the spec gives them, and the free values (no body) for what the
spec leaves unspecified or OPEN. -/

namespace Sys2Proof

/-- The commands that may hold `cmd_ready` low after their effect, or before their first bit (R7 `BUSY_CYC`). -/
inductive BusyOp where
  | panelInit
  | clear
  | showCopy
deriving DecidableEq, Repr

/-- Where the channels sit in a packed colour: the lowest bit of each 8-bit field (R45; U14 asks that a model
carry the layout as a configuration field). -/
structure PackedLayout where
  red : Nat
  green : Nat
  blue : Nat
deriving DecidableEq, Repr

namespace Config

/-! ### Geometry (R5) -/

/-- `TILE_W` (R5). -/
@[simp] abbrev tileW : Nat := 8
/-- `TILE_H` (R5). -/
@[simp] abbrev tileH : Nat := 8
/-- `TILES_X` (R5). -/
@[simp] abbrev tilesX : Nat := 4
/-- `TILES_Y` (R5). -/
@[simp] abbrev tilesY : Nat := 1
/-- `WIDTH` = `TILE_W × TILES_X` (R5). -/
@[simp] abbrev width : Nat := 32
/-- `HEIGHT` = `TILE_H × TILES_Y` (R5). -/
@[simp] abbrev height : Nat := 8
/-- `NUM_LEDS` = `WIDTH × HEIGHT` (R5). -/
@[simp] abbrev numLeds : Nat := 256
/-- `FB_LEN` = `3 × NUM_LEDS` (R5). -/
@[simp] abbrev fbLen : Nat := 768

/-! ### Nominal wire times in nanoseconds (R6, R104, R105, R106) -/

/-- `T1H` (R6). -/
def nsT1H : Nat := 700
/-- `T1L` (R6). -/
def nsT1L : Nat := 600
/-- `T0H` (R6). -/
def nsT0H : Nat := 350
/-- `T0L` (R6). -/
def nsT0L : Nat := 800
/-- `T_RESET`, a lower bound (R6, R106). -/
def nsReset : Nat := 50000

/-! ### Clock and cycle counts (R7, R116) -/

/-- `CLK_HZ` (R7). -/
def clkHz : Nat := 16000000
/-- `CYC_T1H` (R7). -/
def cycT1H : Nat := 11
/-- `CYC_T1L` (R7). -/
def cycT1L : Nat := 10
/-- `CYC_T0H` (R7). -/
def cycT0H : Nat := 6
/-- `CYC_T0L` (R7). -/
def cycT0L : Nat := 13
/-- `CYC_RESET` (R7). -/
def cycReset : Nat := 800

/-! ### The other parameters of R7 -/

/-- `PIN_W` (R7, R16): the width in bits of a pin identifier. Format B's `imm8` holds it (R74, R140). -/
abbrev pinW : Nat := 8

end Config

/-- A pin identifier: "an unsigned value of `PIN_W` = 8 bits" (R16). -/
abbrev PinId := BitVec Config.pinW

namespace Config

/-- `PinSupported` (R7): every value supported, the spec's default. -/
def pinSupported (_pin : PinId) : Bool := true

/-- `BUSY_CYC(op)` (R7): 0 for every op, the spec's default. -/
def busyCyc (_op : BusyOp) : Nat := 0

/-- The layout `0xRRGGBB` of a packed colour (R45, decision D10). -/
def packedLayout : PackedLayout := { red := 16, green := 8, blue := 0 }

/-- `TOL_NS` (R7): OPEN, so no value (log entry 13). -/
opaque tolNs : Nat

/-! ### The font, OPEN (R190; log entry 14) -/

/-- The characters the font supports. -/
opaque fontSupports : Char → Bool
/-- The bitmap of a supported character: row 0 to 5 from the top, column 0 to 3 from the left. -/
opaque fontBitmap : Char → Nat → Nat → Bool

/-! ### Free values: what R27 and part 1 of 93_implementation_defined.md leave unspecified. The first `Nat` is
the draw: a fresh number at every hardware reset and at every later event that leaves a value open. -/

/-- `BRIGHT` after hardware reset `k` (R27). -/
opaque resetBright (k : Nat) : Byte
/-- `PIN` after hardware reset `k` (R27). -/
opaque resetPin (k : Nat) : PinId
/-- `TXLEN` after hardware reset `k` (R27). -/
opaque resetTxlen (k : Nat) : BitVec 16
/-- `TXI` after hardware reset `k` (R27). -/
opaque resetTxi (k : Nat) : BitVec 16
/-- `BITI` after hardware reset `k` (R27). -/
opaque resetBiti (k : Nat) : BitVec 3
/-- `PHASE` after hardware reset `k` (R27). -/
opaque resetPhase (k : Nat) : Phase
/-- `TMR` after hardware reset `k` (R27). -/
opaque resetTmr (k : Nat) : BitVec 16
/-- What `FB[a]` holds after hardware reset `k` until something writes it (R27, U5). -/
opaque unwrittenFb (k a : Nat) : Byte
/-- What `TXBUF[a]` holds after hardware reset `k` until something writes it (R15, R27, U6). -/
opaque unwrittenTx (k a : Nat) : Byte
/-- The colour LED `p` shows where the spec leaves it unspecified, draw `k` (R26, R27, U7, U12). -/
opaque freeLed (k p : Nat) : Rgb
/-- The level of a pad the block is not bound to (R100 corner case b, U8), at an instant of the history. -/
opaque otherPad (k instant : Nat) (pad : PinId) : Level
/-- `IE_host` when the machine is switched on: the host owns it (R22, R27). -/
opaque hostIe : Bool

end Config

end Sys2Proof
end

