-- ==== Sys2Proof/Syntax.lean ====
section
/-! DEFINITION. The six commands (30_encoding.md R72), one constructor for each row of
spec/opcode_table.json. Operands are as R77 assembles them: a coordinate is the integer its two's-complement
field denotes, a channel or level is a `u8`, a pin has `PIN_W` bits, a packed colour is a `u24`. -/

namespace Sys2Proof

/-- A command. `showFrame` is the row SHOW (`show` is a word of Lean). -/
inductive Instr where
  /-- `PANEL_INIT pin`, format B, opcode 1 (R140). -/
  | panelInit (pin : PinId)
  /-- `SET_BRIGHTNESS level`, format B, opcode 2 (R142). -/
  | setBrightness (level : Byte)
  /-- `CLEAR`, format N, opcode 3 (R143). -/
  | clear
  /-- `DRAW_PIXEL x, y, r, g, b`, format P, opcode 4 (R144). -/
  | drawPixel (x y : Int) (r g b : Byte)
  /-- `DRAW_PIXEL_PACKED x, y, color`, format C, opcode 5 (R146). -/
  | drawPixelPacked (x y : Int) (color : Packed)
  /-- `SHOW`, format N, opcode 6 (R148). -/
  | showFrame
deriving DecidableEq, Repr

end Sys2Proof
end

