-- ==== Sys2Proof/WellFormed.lean ====
section
/-! DEFINITION. Which commands can be encoded: "An operand outside its stated range cannot be encoded; an
assembler must reject it rather than truncate it" (R81). The byte and colour operands are in range by their
types; the coordinates are checked. -/

namespace Sys2Proof

/-- A coordinate fits the `i16` field: −32768 … 32767 (R71, R81). -/
def fitsI16 (v : Int) : Bool := decide (-32768 ≤ v) && decide (v ≤ 32767)

/-- The assembler's range check (R81). -/
def Instr.wf : Instr → Bool
  | .panelInit _ => true
  | .setBrightness _ => true
  | .clear => true
  | .drawPixel x y _ _ _ => fitsI16 x && fitsI16 y
  | .drawPixelPacked x y _ => fitsI16 x && fitsI16 y
  | .showFrame => true

end Sys2Proof
end

