-- ==== Sys2Proof/Decode.lean ====
section
/-! DEFINITION. The command encoding of 30_encoding.md: the decoder (total on every 64-bit word, R80), then the
encoder (R83), the bits each format uses (R73 to R76), and the host's table reading of the decoder. -/

namespace Sys2Proof

/-- Why a word is no command: its opcode is reserved (R79). -/
inductive Reject where
  | reservedOpcode (op : BitVec 4)
deriving DecidableEq, Repr

/-- `op` = `W[63:60]` (R71). -/
def opcodeField (w : CmdWord) : BitVec 4 := w.extractLsb' 60 4

/-- `x` = `sint(W[55:40])` (R77). -/
def xField (w : CmdWord) : Int := (w.extractLsb' 40 16).toInt

/-- `y` = `sint(W[39:24])` (R77). -/
def yField (w : CmdWord) : Int := (w.extractLsb' 24 16).toInt

/-- `r` = `W[23:16]` (R77). -/
def rField (w : CmdWord) : Byte := w.extractLsb' 16 8

/-- `g` = `W[15:8]` (R77). -/
def gField (w : CmdWord) : Byte := w.extractLsb' 8 8

/-- `b` = `W[7:0]` (R77). -/
def bField (w : CmdWord) : Byte := w.extractLsb' 0 8

/-- `imm8` = `W[7:0]` (R71, R74). -/
def imm8Field (w : CmdWord) : Byte := w.extractLsb' 0 8

/-- `pin`, the `PIN_W` bits of `imm8` that name a pin (R140, R16). -/
def pinField (w : CmdWord) : PinId := w.extractLsb' 0 Config.pinW

/-- `color` = `W[23:0]` (R76, R77). -/
def colorField (w : CmdWord) : Packed := w.extractLsb' 0 24

/-- The command a word is, decided by `W[63:60]` alone (R72, R80); the ten reserved opcodes are rejected by
name (R79). Bits a format does not use are not looked at (R78). -/
def decodeWord (w : CmdWord) : Except Reject Instr :=
  match (opcodeField w).toNat with
  | 1 => .ok (.panelInit (pinField w))
  | 2 => .ok (.setBrightness (imm8Field w))
  | 3 => .ok .clear
  | 4 => .ok (.drawPixel (xField w) (yField w) (rField w) (gField w) (bField w))
  | 5 => .ok (.drawPixelPacked (xField w) (yField w) (colorField w))
  | 6 => .ok .showFrame
  | _ => .error (.reservedOpcode (opcodeField w))

/-- The opcode of a command (R72). -/
def Instr.opcode : Instr → BitVec 4
  | .panelInit _ => 1#4
  | .setBrightness _ => 2#4
  | .clear => 3#4
  | .drawPixel _ _ _ _ _ => 4#4
  | .drawPixelPacked _ _ _ => 5#4
  | .showFrame => 6#4

/-- The name of a command in the opcode table (R72). -/
def Instr.mnemonic : Instr → String
  | .panelInit _ => "PANEL_INIT"
  | .setBrightness _ => "SET_BRIGHTNESS"
  | .clear => "CLEAR"
  | .drawPixel _ _ _ _ _ => "DRAW_PIXEL"
  | .drawPixelPacked _ _ _ => "DRAW_PIXEL_PACKED"
  | .showFrame => "SHOW"

/-- The fields of a command word put in their places, every unused bit 0 (R71, R83). -/
def packWord (op : BitVec 4) (x y : BitVec 16) (low : Packed) : CmdWord :=
  (op.setWidth 64 <<< 60) ||| (x.setWidth 64 <<< 40) ||| (y.setWidth 64 <<< 24) ||| low.setWidth 64

/-- The three channel fields side by side, bits 23:0 of the word (R75). -/
def packChannels (r g b : Byte) : Packed :=
  (r.setWidth 24 <<< 16) ||| (g.setWidth 24 <<< 8) ||| b.setWidth 24

/-- The canonical word of a command (R78, R83): format B puts `imm8` in the place of `b`, format N has nothing
but `op`. -/
def encode (i : Instr) : CmdWord :=
  match i with
  | .panelInit pin => packWord i.opcode 0#16 0#16 (pin.setWidth 24)
  | .setBrightness level => packWord i.opcode 0#16 0#16 (level.setWidth 24)
  | .clear => packWord i.opcode 0#16 0#16 0#24
  | .drawPixel x y r g b => packWord i.opcode (BitVec.ofInt 16 x) (BitVec.ofInt 16 y) (packChannels r g b)
  | .drawPixelPacked x y color => packWord i.opcode (BitVec.ofInt 16 x) (BitVec.ofInt 16 y) color
  | .showFrame => packWord i.opcode 0#16 0#16 0#24

/-- The bits of the word that a command's format uses: `W[63:60]` and, by format, nothing more (N, R73), bits
7:0 (B, R74), or bits 55:0 (P and C, R75 and R76). -/
def Instr.usedBits : Instr → CmdWord
  | .panelInit _ => 0xF0000000000000FF#64
  | .setBrightness _ => 0xF0000000000000FF#64
  | .clear => 0xF000000000000000#64
  | .drawPixel _ _ _ _ _ => 0xF0FFFFFFFFFFFFFF#64
  | .drawPixelPacked _ _ _ => 0xF0FFFFFFFFFFFFFF#64
  | .showFrame => 0xF000000000000000#64

/-- The decoder's answer as an option. -/
def decode? (w : CmdWord) : Option Instr :=
  match decodeWord w with
  | .ok i => some i
  | .error _ => none

/-- The command the decoder reads from a table row's word: a command is one word, so its bits are `W`'s own
(R70). -/
def decodeTableWord (nbits w : Nat) : Option Instr :=
  decode? (BitVec.ofNat 64 (w % 2 ^ nbits))

end Sys2Proof
end

