-- ==== Sys2Proof/Machine/State.lean ====
section
/-! DEFINITION. The state of the block and of what stands beside it (10_state.md R10 to R27), the ways a step
can stop, and the state right after hardware reset (R27). One `State` is one block instance (R29). -/

namespace Sys2Proof.Machine

/-- `MODE` (R12). -/
inductive Mode where
  | unbound
  | idle
  | sending
  | latch
deriving DecidableEq, Repr

/-- One thing the outside world does next (R23, R22). The list `State.stimuli` is read from its head. -/
inductive Stimulus where
  /-- Level S (R8): the host issues one command and holds it until it has run to completion (R50, R152). -/
  | command (w : CmdWord)
  /-- Level C (R8): one rising edge of `clk` with these levels on `rst`, `cmd_valid` and `cmd_word` (R23). -/
  | edge (rst valid : Bool) (w : CmdWord)
  /-- The host writes its own interrupt-enable state, `IE_host` (R22). -/
  | hostIe (b : Bool)
deriving DecidableEq, Repr

/-- A memory of the block, `FB` or `TXBUF` (R14, R15): the bytes written since the last hardware reset, by
strictly rising offset. An offset that is not listed has not been written; what it holds is a free value
(`State.fbByte`, `State.txByte`). -/
abbrev Memory := List Host.Cell

/-- A fault. The block raises none: "The block raises no synchronous exception" (R200), so the type has no
constructor and no step can end in a fault. -/
inductive Fault where
deriving DecidableEq, Repr

/-- The situations to which the spec gives no meaning: it says `refuse` (R201's three rows). Each is safe: the
run ends and nothing is claimed beyond it. -/
inductive Refusal where
  /-- Raised by an arm of `exec` whose command has no meaning in this model; no arm does so. Safe. -/
  | notModelled (mnemonic : String)
  /-- Raised by an accepted word whose opcode is 0 or 7 to 15 (R79, U1). Safe. -/
  | reservedOpcode (op : BitVec 4)
  /-- Raised by every command but `PANEL_INIT` accepted in `MODE` = `UNBOUND` (R152, U2). Safe. -/
  | notConstructed (mnemonic : String)
  /-- Raised by `PANEL_INIT` with a pin that `PinSupported` excludes (R100, U4). Safe. -/
  | unsupportedPin (pin : PinId)
deriving DecidableEq, Repr

/-- The machine. The first group is the block's own state, the second the host's and the environment's, the
third the model's own bookkeeping of free values and of what the receiver has seen. -/
structure State where
  /-- `MODE` (R12). -/
  mode : Mode
  /-- `BRIGHT` (R13). -/
  bright : Byte
  /-- `FB` (R14). -/
  fb : Memory
  /-- `TXBUF` (R15). -/
  txbuf : Memory
  /-- `PIN` (R16). -/
  pin : PinId
  /-- `DOUT` (R17). -/
  dout : Level
  /-- `TXLEN` (R18). -/
  txlen : BitVec 16
  /-- `TXI` (R20). -/
  txi : BitVec 16
  /-- `BITI` (R20). -/
  biti : BitVec 3
  /-- `PHASE` (R20). -/
  phase : Phase
  /-- `TMR` (R21). -/
  tmr : BitVec 16
  /-- The cycles a `BUSY_CYC` wait still lasts (R23, R153). -/
  busy : Nat
  /-- The wait is the one between `SHOW`'s copy and its first bit (R110). -/
  showPending : Bool
  /-- `IE_host` (R22), the host's. -/
  ieHost : Bool
  /-- `WIRE` at level S (R25), oldest symbol first. -/
  wire : List Sym
  /-- `WIRE` at level C (R25), the level of every clock cycle, NEWEST FIRST; `State.cycleTrace` turns it. -/
  trace : List Level
  /-- `LEDS` (R26): 256 colours. -/
  leds : List Rgb
  /-- What the outside world does next: the command port and `rst` (R23). -/
  stimuli : List Stimulus
  /-- For how many cycles the line has been low, counted up to `CYC_RESET` (the premise of decision D20). -/
  lowCyc : Nat
  /-- The line had been low for `T_RESET` when the present, or the last, frame began (decision D20). -/
  armed : Bool
  /-- The draw of the last hardware reset: the argument of the free values of R27. -/
  epoch : Nat
  /-- The last draw made. -/
  draws : Nat
deriving DecidableEq, Repr

/-- 256 colours the spec leaves unspecified (R27, U7). -/
def freeLeds (k : Nat) : List Rgb := (List.range Config.numLeds).map (Config.freeLed k)

/-- The state after hardware reset (R27), with the free values of draw `k`; `IE_host` and what the outside
world does next are not the block's to change. -/
def State.afterReset (k : Nat) (ieHost : Bool) (stimuli : List Stimulus) : State where
  mode := .unbound
  bright := Config.resetBright k
  fb := []
  txbuf := []
  pin := Config.resetPin k
  dout := .z
  txlen := Config.resetTxlen k
  txi := Config.resetTxi k
  biti := Config.resetBiti k
  phase := Config.resetPhase k
  tmr := Config.resetTmr k
  busy := 0
  showPending := false
  ieHost := ieHost
  wire := []
  trace := []
  leds := freeLeds k
  stimuli := stimuli
  lowCyc := 0
  armed := false
  epoch := k
  draws := k

/-- The machine right after hardware reset, with nothing offered at the port (R27, R230). -/
def State.reset : State := State.afterReset 0 Config.hostIe []

end Sys2Proof.Machine
end

