-- ==== Sys2Proof/Machine/Ops.lean ====
section
/-! DEFINITION. The named operations over the block's memories and registers: reading and writing one byte,
`MemRead` and `MemWrite` (R9), filling a buffer (R140, R143), and hardware reset (R230, R233). The block has no
exception to take and none to return from (R200, R206); its one asynchronous event is hardware reset (R203). -/

namespace Sys2Proof.Machine

/-! ### One byte of a memory -/

/-- The byte written at an offset, if one has been. -/
def Memory.read : Memory → Nat → Option Byte
  | [], _ => none
  | (b, v) :: rest, a => if a = b then some v else Memory.read rest a

/-- Put a byte at an offset, keeping the offsets strictly rising; an earlier byte there is overwritten (R54). -/
def Memory.put : Memory → Nat → Byte → Memory
  | [], a, v => [(a, v)]
  | (b, w) :: rest, a, v =>
    if a < b then (a, v) :: (b, w) :: rest
    else if a = b then (a, v) :: rest
    else (b, w) :: Memory.put rest a v

/-- Write one byte of a buffer. The buffer has the offsets 0 … 767 and no other (R40), so an access outside it
cannot be expressed (R47). -/
def Memory.write (m : Memory) (a : Fin Config.fbLen) (v : Byte) : Memory := m.put a.val v

/-- The canonical form, from a lower bound on: offsets strictly rising and inside the buffer. -/
def Memory.wfFrom (lo : Nat) : Memory → Bool
  | [] => true
  | (a, _) :: rest => decide (lo ≤ a) && decide (a < Config.fbLen) && Memory.wfFrom (a + 1) rest

/-- The canonical form of a memory. -/
def Memory.wf (m : Memory) : Bool := Memory.wfFrom 0 m

/-- Every offset of the buffer has been written since hardware reset. -/
@[irreducible] def Memory.full (m : Memory) : Bool := (List.range Config.fbLen).all fun a => (m.read a).isSome

/-- The buffer whose byte at every offset `a` is `f a`. -/
@[irreducible] def Memory.ofFn (f : Nat → Byte) : Memory := (List.range Config.fbLen).map fun a => (a, f a)

/-- `for i in 0 .. 767: M[i] <- v` (R140, R143). -/
def Memory.fill (v : Byte) : Memory := Memory.ofFn fun _ => v

/-- `MemWrite(M, addr, n, v)` (R9): the listed bytes, in increasing offset order. -/
def Memory.memWrite (m : Memory) (a : Nat) :
    (vs : List Byte) → a + vs.length ≤ Config.fbLen → Memory
  | [], _ => m
  | v :: vs, h =>
    Memory.memWrite (m.write ⟨a, by simp only [List.length_cons] at h; omega⟩ v) (a + 1) vs
      (by simp only [List.length_cons] at h; omega)

/-! ### The bytes the machine reads -/

/-- `FB[a]` (R14), for `a` below 768; no command reads beyond. A byte nothing has written since hardware reset is a
free value (R27, U5). -/
def State.fbByte (s : State) (a : Nat) : Byte := (s.fb.read a).getD (Config.unwrittenFb s.epoch a)

/-- `TXBUF[a]` (R15). A byte nothing has written since hardware reset is a free value (R15, R27, U6); so is, by the
model's choice, a byte beyond the 768 of the buffer (DESIGN CHOICE, log entry 21). -/
def State.txByte (s : State) (a : Nat) : Byte := (s.txbuf.read a).getD (Config.unwrittenTx s.epoch a)

/-- `MemRead(FB, addr, n)` (R9), for `addr + n` ≤ 768; the model reads no further (R47). -/
def State.memReadFb (s : State) (addr n : Nat) : List Byte := (List.range' addr n).map s.fbByte

/-- `MemRead(TXBUF, addr, n)` (R9). R9 defines it for `addr + n` ≤ 768; what a longer read gives is the model's
choice, a free value for each offset from 768 on (DESIGN CHOICE, log entry 21). -/
def State.memReadTx (s : State) (addr n : Nat) : List Byte := (List.range' addr n).map s.txByte

/-- The triple stored for the LED with physical index `p`, in stored order: green, red, blue (R14, R41). -/
def State.storedTriple (s : State) (p : Nat) : List Byte := s.memReadFb (3 * p) 3

/-- The level-C history, oldest cycle first (R25). -/
def State.cycleTrace (s : State) : List Level := s.trace.reverse

/-! ### Hardware reset -/

/-- A rising edge with `rst` = 1 (R230), whatever the mode (R233, R205): the reset state of R27 with fresh free
values. `LEDS` is unspecified from here on; `IE_host` stays the host's. -/
def hardwareReset (s : State) : State := State.afterReset (s.draws + 1) s.ieHost s.stimuli

end Sys2Proof.Machine
end

