-- ==== Sys2Proof/Machine/Flags.lean ====
section
/-! DEFINITION. The block has no condition codes: "no command reads or writes a flag" (10_state.md R19). What it
has instead are outputs that are functions of the state (R23), gathered here with what they mean to the host. -/

namespace Sys2Proof.Machine

/-- The encoding of `MODE` (R12), on no port. -/
def Mode.code : Mode → BitVec 2
  | .unbound => 0#2
  | .idle => 1#2
  | .sending => 2#2
  | .latch => 3#2

/-- A transmission is in progress: `MODE` ∈ {`SENDING`, `LATCH`}. -/
def Mode.transmitting : Mode → Bool
  | .unbound => false
  | .idle => false
  | .sending => true
  | .latch => true

/-- The output `cmd_ready` (R23): 1 exactly in `UNBOUND` and `IDLE` with no `BUSY_CYC` wait pending. -/
def State.cmdReady (s : State) : Bool := !s.mode.transmitting && s.busy == 0

/-- The output `irq_inhibit` (R23): 1 exactly in `SENDING` and `LATCH`. -/
def State.irqInhibit (s : State) : Bool := s.mode.transmitting

/-- The host takes an interrupt only when `IE_host` = 1 and `irq_inhibit` = 0 (R22, R204). -/
def State.hostMayTakeInterrupt (s : State) : Bool := s.ieHost && !s.irqInhibit

/-- The level of a pad: `dout` is on the pad `PIN` selects (R23); of any other pad nothing is known (R100 corner
case b, U8), so its level is a free value of the instant. -/
def State.pad (s : State) (q : PinId) : Level :=
  if q = s.pin then s.dout else Config.otherPad s.draws (s.trace.length + s.wire.length) q

end Sys2Proof.Machine
end

