-- ==== Sys2Proof/Machine/Geometry.lean ====
section
/-! DEFINITION. The geometry map of 42_geometry_mapping.md and the bounds check before it (R145). Pure
functions, no state (R183). -/

namespace Sys2Proof.Machine

/-- `InBounds(x, y)` on the signed values (R145). -/
def inBounds (x y : Int) : Bool :=
  decide (0 ≤ x) && decide (x < (Config.width : Int)) && decide (0 ≤ y) && decide (y < (Config.height : Int))

/-- `tileIndex` (R180). -/
def tileIndex (x : Nat) : Nat := x / Config.tileW

/-- `localX` (R180). -/
def localX (x : Nat) : Nat := x % Config.tileW

/-- `localY` (R180). -/
def localY (y : Nat) : Nat := y % Config.tileH

/-- `withinTile` (R180): even local columns run top to bottom, odd ones bottom to top. -/
def withinTile (lx ly : Nat) : Nat :=
  if lx % 2 = 1 then lx * Config.tileH + (Config.tileH - 1 - ly) else lx * Config.tileH + ly

/-- `Map(x, y)` (R180). -/
def map (x y : Nat) : Nat :=
  tileIndex x * (Config.tileW * Config.tileH) + withinTile (localX x) (localY y)

/-- The column of the inverse of `Map` (R182). -/
def unmapX (p : Nat) : Nat := 8 * (p / 64) + p % 64 / 8

/-- The row of the inverse of `Map` (R182). -/
def unmapY (p : Nat) : Nat := if p % 64 / 8 % 2 = 0 then p % 64 % 8 else 7 - p % 64 % 8

end Sys2Proof.Machine
end

