-- ==== Sys2Proof/Machine/Operands.lean ====
section
/-! DEFINITION. Operand forms: the channels of a packed colour (R45, R77), the one effective address of the
block, `3 × Map(x, y)` (R144, R147), and the store that uses it. -/

namespace Sys2Proof.Machine

/-- `r <- color[23:16]` at the default layout (R77, R146). -/
def packedRed (color : Packed) : Byte := color.extractLsb' Config.packedLayout.red 8

/-- `g <- color[15:8]` at the default layout (R77, R146). -/
def packedGreen (color : Packed) : Byte := color.extractLsb' Config.packedLayout.green 8

/-- `b <- color[7:0]` at the default layout (R77, R146). -/
def packedBlue (color : Packed) : Byte := color.extractLsb' Config.packedLayout.blue 8

/-- `StoreTriple(p, r, g, b)` (R147): green, red, blue at `3p`, `3p+1`, `3p+2`. -/
def storeTriple (m : Memory) (p : Fin Config.numLeds) (r g b : Byte) : Memory :=
  m.memWrite (3 * p.val) [g, r, b] (by
    have h := p.isLt
    simp only [Config.numLeds, Config.fbLen, List.length_cons, List.length_nil] at h ⊢
    omega)

/-- A tile has 64 LEDs (R42). -/
theorem withinTile_lt {lx ly : Nat} (hx : lx < 8) (hy : ly < 8) : withinTile lx ly < 64 := by
  unfold withinTile
  split <;> simp only [Config.tileH] <;> omega

/-- `Map` stays inside the chain (R182). -/
theorem map_lt {x y : Nat} (hx : x < Config.width) : map x y < Config.numLeds := by
  have hw : withinTile (localX x) (localY y) < 64 :=
    withinTile_lt (Nat.mod_lt _ (by decide)) (Nat.mod_lt _ (by decide))
  simp only [map, tileIndex, Config.width, Config.numLeds, Config.tileW, Config.tileH] at hx hw ⊢
  omega

/-- `FB` after a pixel command with these operands (R144): out of bounds it is the same memory. -/
def plot (m : Memory) (x y : Int) (r g b : Byte) : Memory :=
  if h : inBounds x y = true then
    storeTriple m ⟨map x.toNat y.toNat, map_lt (by
      simp only [inBounds, Bool.and_eq_true, decide_eq_true_eq] at h
      simp only [Config.width] at h ⊢
      omega)⟩ r g b
  else m

end Sys2Proof.Machine
end

