-- ==== Sys2Proof/Machine/Scaler.lean ====
section
/-! DEFINITION. The brightness scaler (41_panel_controller.md R149, R151) and the copy `SHOW` makes with it
(R148). -/

namespace Sys2Proof.Machine

/-- The unsigned 16-bit product of two zero-extended bytes (R151). -/
def scaleProduct (v s : Byte) : BitVec 16 := v.zeroExtend 16 * s.zeroExtend 16

/-- `Scale(v, s)` (R149): the identity at 255, otherwise the high byte of the product, truncated. -/
def scale (v s : Byte) : Byte := if s = 255#8 then v else (scaleProduct v s).extractLsb' 8 8

/-- `for i in 0 .. 767: TXBUF[i] <- Scale(FB[i], BRIGHT)` (R148). -/
def copyScaled (s : State) : State :=
  { s with txbuf := Memory.ofFn fun a => scale (s.fbByte a) s.bright }

end Sys2Proof.Machine
end

