-- ==== Sys2Proof/Machine/SignalDriver.lean ====
section
/-! DEFINITION. The Signal Driver (40_signal_driver.md): `SD.initialize` (R100), `SD.transmit` at level S (R107,
R108), and the clocked machine of level C (R110 to R115). -/

namespace Sys2Proof.Machine

/-! ### The wire code -/

/-- The symbol of a bit (R104, R105). -/
def symOfBit (v : Bool) : Sym := if v then .t1 else .t0

/-- The eight symbols of a byte, most significant bit first (R43). -/
def byteSymbols (t : Byte) : List Sym := [7, 6, 5, 4, 3, 2, 1, 0].map fun j => symOfBit (t.getLsbD j)

/-- The data symbols of a byte list, bytes in increasing index (R43). -/
def dataSymbols (t : List Byte) : List Sym := t.flatMap byteSymbols

/-- What `SD.transmit(t, n)` appends to `WIRE` (R107); for the empty list nothing (R108). -/
def transmitSymbols (t : List Byte) : List Sym :=
  if t.isEmpty then [] else dataSymbols t ++ [.reset]

/-- `CH(v)`: the cycles of the high phase of a bit. -/
def cycHigh (v : Bool) : Nat := if v then Config.cycT1H else Config.cycT0H

/-- `CL(v)`: the cycles of the low phase of a bit. -/
def cycLow (v : Bool) : Nat := if v then Config.cycT1L else Config.cycT0L

/-- What `TMR` is loaded with for a phase of `n` cycles: the further cycles it lasts (R21). -/
def timerFor (n : Nat) : BitVec 16 := BitVec.ofNat 16 (n - 1)

/-! ### The receiver (R26) -/

/-- The colours the 768 bytes of `TXBUF` give the LEDs: red `t[3p+1]`, green `t[3p]`, blue `t[3p+2]` (R26). -/
def ledsOfTxbuf (s : State) : List Rgb :=
  (List.range Config.numLeds).map fun p =>
    { red := s.txByte (3 * p + 1), green := s.txByte (3 * p), blue := s.txByte (3 * p + 2) }

/-- The receiver takes up a frame when its latch gap has elapsed (R26, R115). The spec says what the LEDs show
then only for a 768-byte frame before which the line was low for `T_RESET` (decision D20, U7, U12); otherwise
the colours are free. -/
def receiveFrame (s : State) : State :=
  if s.txlen = BitVec.ofNat 16 Config.fbLen ∧ s.armed = true then { s with leds := ledsOfTxbuf s }
  else { s with leds := freeLeds (s.draws + 1), draws := s.draws + 1 }

/-! ### The two operations of level S -/

/-- `SD.initialize(pin)` (R100), `supported` being `PinSupported`; `none` is the spec's `refuse`. A line that is
newly driven has not been low for any time yet. `PANEL_INIT` runs it from `UNBOUND` and `IDLE`; on its own it runs
from any `MODE` (DESIGN CHOICE, log entry 22). -/
def sdInitialize (supported : PinId → Bool) (pin : PinId) (s : State) : Option State :=
  if supported pin then
    some { s with pin := pin, dout := .l, lowCyc := if s.dout = .l ∧ s.pin = pin then s.lowCyc else 0 }
  else none

/-- `SD.transmit(TXBUF, n)` as one step of level S (R107): the symbols on `WIRE`, the receiver's update, the
line low and the cursor where the clocked machine leaves it. For `n` = 0 nothing at all (R108). For `n` > 768, which
the block never asks for, it runs and sends a free value for each byte beyond `TXBUF` (DESIGN CHOICE, log entry
21). `SHOW` runs it from `IDLE`; on its own it runs from any `MODE`, before construction and inside a transmission
too, and ends in `IDLE` (DESIGN CHOICE, log entry 22). -/
def sdTransmit (n : BitVec 16) (s : State) : State :=
  if n = 0#16 then s
  else receiveFrame
    { s with
      mode := .idle
      dout := .l
      wire := s.wire ++ transmitSymbols (s.memReadTx 0 n.toNat)
      txlen := n
      txi := n
      biti := 7#3
      phase := .lo
      tmr := 0#16
      armed := decide (Config.cycReset ≤ s.lowCyc)
      lowCyc := Config.cycReset }

/-! ### The clocked machine of level C -/

/-- `cur`: the bit on the wire, `TXBUF[TXI][BITI]` (R20). -/
def State.curBit (s : State) : Bool := (s.txByte s.txi.toNat).getLsbD s.biti.toNat

/-- Drive the high phase of the bit under the cursor (R110, R113). -/
def driveHigh (s : State) : State :=
  { s with phase := .hi, dout := .h, tmr := timerFor (cycHigh s.curBit) }

/-- Start of a transmission of `n` bytes (R110; `n` is 768 in the block, R18); for `n` = 0 nothing (R108), for
`n` > 768 and from a `MODE` other than `IDLE` as `sdTransmit` (DESIGN CHOICE, log entries 21 and 22). -/
def startTransmit (n : BitVec 16) (s : State) : State :=
  if n = 0#16 then s
  else driveHigh
    { s with
      txlen := n
      txi := 0#16
      biti := 7#3
      mode := .sending
      armed := decide (Config.cycReset ≤ s.lowCyc) }

/-- High to low (R112). -/
def highToLow (s : State) : State :=
  { s with phase := .lo, dout := .l, tmr := timerFor (cycLow s.curBit) }

/-- The cursor on the next bit (R113). -/
def advanceCursor (s : State) : State :=
  if s.biti ≠ 0#3 then { s with biti := s.biti - 1#3 }
  else { s with biti := 7#3, txi := s.txi + 1#16 }

/-- Data to latch (R114). -/
def beginLatch (s : State) : State := { s with mode := .latch, tmr := timerFor Config.cycReset }

/-- Low to next bit (R113): the symbol of the bit just finished is on `WIRE`, the cursor advances, and either
the data is finished (R114) or the next high phase begins. -/
def nextBit (s : State) : State :=
  let s' := advanceCursor { s with wire := s.wire ++ [symOfBit s.curBit] }
  if s'.txi = s'.txlen then beginLatch s' else driveHigh s'

/-- Latch to idle (R115): `RESET` is on `WIRE` and the receiver takes up the frame. -/
def endLatch (s : State) : State := receiveFrame { s with mode := .idle, wire := s.wire ++ [.reset] }

/-- One cycle of a `BUSY_CYC` wait (R153); when it ends a pending `SHOW` starts (R110). -/
def waitBusy (s : State) : State :=
  if s.busy = 0 then s
  else if s.busy = 1 ∧ s.showPending = true then
    startTransmit (BitVec.ofNat 16 Config.fbLen) { s with busy := 0, showPending := false }
  else { s with busy := s.busy - 1 }

/-- What an edge with `rst` = 0 and no command accepted does to the block's state (R111 to R115). -/
def advance (s : State) : State :=
  match s.mode with
  | .unbound => waitBusy s
  | .idle => waitBusy s
  | .sending =>
    if s.tmr ≠ 0#16 then { s with tmr := s.tmr - 1#16 }
    else match s.phase with
      | .hi => highToLow s
      | .lo => nextBit s
  | .latch => if s.tmr ≠ 0#16 then { s with tmr := s.tmr - 1#16 } else endLatch s

/-- The cycle that begins at this edge is recorded (R25), and the receiver's count of low cycles goes on. -/
def observe (s : State) : State :=
  { s with
    trace := s.dout :: s.trace
    lowCyc := if s.dout = .l then min (s.lowCyc + 1) Config.cycReset else 0 }

/-- One rising edge of `clk` with `rst` = 0 at which no command is accepted (R111 to R115, R122). -/
def clockEdge (s : State) : State := observe (advance s)

/-- `n` such edges. -/
def clockEdges : Nat → State → State
  | 0, s => s
  | n + 1, s => clockEdges n (clockEdge s)

end Sys2Proof.Machine
end

