-- ==== Sys2Proof/Machine/Accept.lean ====
section
/-! DEFINITION. When a command is accepted (R152): the two guards every meaning goes through. -/

namespace Sys2Proof.Machine

/-- A command takes effect only when `cmd_ready` = 1; otherwise it is "neither accepted nor lost" (R152): the
host holds it, and what happens is one clock edge of the block. -/
def whenReady (s : State) (effect : State → Host.Outcome State Fault Refusal) :
    Host.Outcome State Fault Refusal :=
  if s.cmdReady then effect s else .next (clockEdge s)

/-- In `UNBOUND` only `PANEL_INIT` has a meaning; every other command is refused there (R152, U2). -/
def whenConstructed (mnemonic : String) (s : State) (effect : State → Host.Outcome State Fault Refusal) :
    Host.Outcome State Fault Refusal :=
  whenReady s fun s =>
    match s.mode with
    | .unbound => .refused (.notConstructed mnemonic)
    | .idle => effect s
    | .sending => effect s
    | .latch => effect s

end Sys2Proof.Machine
end

