-- ==== Sys2Proof/Machine/Flush.lean ====
section
/-! DEFINITION. The flush: `SHOW` (R148) as one step of level S, and the edge at which level C accepts it
(R110). -/

namespace Sys2Proof.Machine

/-- The length of every transmission of the block, 768 (R18, R107). -/
def frameLength : BitVec 16 := BitVec.ofNat 16 Config.fbLen

/-- `SHOW` (R148): the scaled copy, then `SD.transmit(TXBUF, 768)` to its end (R107). -/
def execShow (s : State) : Host.Outcome State Fault Refusal :=
  whenConstructed "SHOW" s fun s => .next (sdTransmit frameLength (copyScaled s))

/-- `SHOW` at the edge that accepts it (R110): the copy is complete, and the first bit starts at once or after
`wait` further cycles. -/
def startShow (wait : Nat) (s : State) : State :=
  if wait = 0 then startTransmit frameLength (copyScaled s)
  else { copyScaled s with busy := wait, showPending := true }

end Sys2Proof.Machine
end

