-- ==== Sys2Proof/Machine/Panel.lean ====
section
/-! DEFINITION. The commands that set the block up: `PANEL_INIT` (R140), `SET_BRIGHTNESS` (R142), `CLEAR`
(R143). -/

namespace Sys2Proof.Machine

/-- What construction does after the line is bound (R140): framebuffer zero, brightness 255, `MODE` = `IDLE`. -/
def construct (s : State) : State :=
  { s with fb := Memory.fill 0#8, bright := 255#8, mode := .idle }

/-- `PANEL_INIT pin` (R140), accepted in `UNBOUND` and in `IDLE`; an unsupported pin is refused (R100). -/
def execPanelInit (pin : PinId) (s : State) : Host.Outcome State Fault Refusal :=
  whenReady s fun s =>
    match sdInitialize Config.pinSupported pin s with
    | some s' => .next (construct s')
    | none => .refused (.unsupportedPin pin)

/-- `SET_BRIGHTNESS level` (R142). -/
def execSetBrightness (level : Byte) (s : State) : Host.Outcome State Fault Refusal :=
  whenConstructed "SET_BRIGHTNESS" s fun s => .next { s with bright := level }

/-- `CLEAR` (R143). -/
def execClear (s : State) : Host.Outcome State Fault Refusal :=
  whenConstructed "CLEAR" s fun s => .next { s with fb := Memory.fill 0#8 }

end Sys2Proof.Machine
end

