-- ==== Sys2Proof/Machine/Pixel.lean ====
section
/-! DEFINITION. The pixel commands: `DRAW_PIXEL` (R144) and `DRAW_PIXEL_PACKED` (R146). -/

namespace Sys2Proof.Machine

/-- `DRAW_PIXEL x, y, r, g, b` (R144): out of bounds no mutation, in bounds one triple. -/
def execDrawPixel (x y : Int) (r g b : Byte) (s : State) : Host.Outcome State Fault Refusal :=
  whenConstructed "DRAW_PIXEL" s fun s => .next { s with fb := plot s.fb x y r g b }

/-- `DRAW_PIXEL_PACKED x, y, color` (R146). -/
def execDrawPixelPacked (x y : Int) (color : Packed) (s : State) : Host.Outcome State Fault Refusal :=
  whenConstructed "DRAW_PIXEL_PACKED" s fun s =>
    .next { s with fb := plot s.fb x y (packedRed color) (packedGreen color) (packedBlue color) }

end Sys2Proof.Machine
end

