-- ==== Sys2Proof/Machine/Dispatch.lean ====
section
/-! DEFINITION. The meaning of a command, one arm for each constructor of `Instr`. -/

namespace Sys2Proof.Machine

def exec (i : Instr) (s : State) : Host.Outcome State Fault Refusal :=
  match i with
  | .panelInit pin => Sys2Proof.Machine.execPanelInit pin s
  | .setBrightness level => Sys2Proof.Machine.execSetBrightness level s
  | .clear => Sys2Proof.Machine.execClear s
  | .drawPixel x y r g b => Sys2Proof.Machine.execDrawPixel x y r g b s
  | .drawPixelPacked x y color => Sys2Proof.Machine.execDrawPixelPacked x y color s
  | .showFrame => Sys2Proof.Machine.execShow s

end Sys2Proof.Machine
end

