-- ==== Sys2Proof/Machine/Port.lean ====
section
/-! DEFINITION. The command port (R23, R152, R153): a command run whole (level S), and one rising edge with given
levels on the input ports (level C). -/

namespace Sys2Proof.Machine

/-- An accepted word run to completion as one step of level S; a reserved opcode is refused (R79). -/
def runCommand (w : CmdWord) (s : State) : Host.Outcome State Fault Refusal :=
  match decodeWord w with
  | .ok i => exec i s
  | .error (.reservedOpcode op) => .refused (.reservedOpcode op)

/-- The accepting edge of a command that completes at it, but for a `BUSY_CYC` wait (R153): the cycle that
begins is recorded. -/
def completeAtEdge (wait : Nat) : Host.Outcome State Fault Refusal → Host.Outcome State Fault Refusal
  | .next s => .next (observe { s with busy := wait })
  | .fault f => .fault f
  | .refused r => .refused r

/-- What the accepting edge does when `cmd_ready` = 1 (R153, R110). Five commands have all of their effect at it;
`SHOW` makes its copy and starts the serializer. -/
def acceptNow (i : Instr) (s : State) : Host.Outcome State Fault Refusal :=
  match i with
  | .panelInit pin => completeAtEdge (Config.busyCyc .panelInit) (execPanelInit pin s)
  | .setBrightness level => completeAtEdge 0 (execSetBrightness level s)
  | .clear => completeAtEdge (Config.busyCyc .clear) (execClear s)
  | .drawPixel x y r g b => completeAtEdge 0 (execDrawPixel x y r g b s)
  | .drawPixelPacked x y color => completeAtEdge 0 (execDrawPixelPacked x y color s)
  | .showFrame =>
    whenConstructed "SHOW" s fun s => .next (observe (startShow (Config.busyCyc .showCopy) s))

/-- A command offered at an edge with `rst` = 0 (R23). -/
def acceptEdge (i : Instr) (s : State) : Host.Outcome State Fault Refusal :=
  whenReady s (acceptNow i)

/-- One rising edge of `clk`: reset wins (R205), then a command is accepted if `cmd_valid` = 1 and `cmd_ready` =
1 (R23), otherwise the block goes on. -/
def portEdge (rst valid : Bool) (w : CmdWord) (s : State) : Host.Outcome State Fault Refusal :=
  if rst then .next (hardwareReset s)
  else if valid && s.cmdReady then
    match decodeWord w with
    | .ok i => acceptEdge i s
    | .error (.reservedOpcode op) => .refused (.reservedOpcode op)
  else .next (clockEdge s)

end Sys2Proof.Machine
end

