-- ==== Sys2Proof/Machine/Step.lean ====
section
/-! DEFINITION. One step of the machine: the next thing the outside world does (R23). Nothing offered is a clock
edge at which the block goes on or waits for a command (R230). -/

namespace Sys2Proof.Machine

def step (s : State) : Host.Outcome State Fault Refusal :=
  match s.stimuli with
  | [] => .next (clockEdge s)
  | .command w :: rest =>
    if s.cmdReady then runCommand w { s with stimuli := rest } else .next (clockEdge s)
  | .edge rst valid w :: rest => portEdge rst valid w { s with stimuli := rest }
  | .hostIe b :: rest => .next { s with ieHost := b, stimuli := rest }

/-- The word of a command is the next thing the host issues: the block fetches from no store, its commands come
one at a time over the port (R11). -/
def State.withFetchWord (s : State) (nbits w : Nat) : State :=
  { s with stimuli := .command (BitVec.ofNat 64 (w % 2 ^ nbits)) :: s.stimuli }

end Sys2Proof.Machine
end

