-- ==== Sys2Proof/Machine/Observer.lean ====
section
/-! DEFINITION. What an observer of the line measures: the cycles and nominal times of the symbols (R104 to R106),
the duration of a transmission (R118), and the reading of a level-C trace as symbols (R121). No state. -/

namespace Sys2Proof.Machine

/-- A segment of the line at one level, with a duration in nanoseconds (R9). -/
structure Segment where
  level : Level
  ns : Nat
deriving DecidableEq, Repr

/-- The segments of a symbol at their nominal times (R104, R105); of `RESET` the shortest (R106). -/
def symSegments : Sym → List Segment
  | .t1 => [⟨.h, Config.nsT1H⟩, ⟨.l, Config.nsT1L⟩]
  | .t0 => [⟨.h, Config.nsT0H⟩, ⟨.l, Config.nsT0L⟩]
  | .reset => [⟨.l, Config.nsReset⟩]

/-- The nominal time of a symbol in nanoseconds, for `RESET` a lower bound. -/
def symNs (y : Sym) : Nat := ((symSegments y).map Segment.ns).sum

/-- The nominal time of a list of symbols (R118). -/
def nominalNs (ys : List Sym) : Nat := (ys.map symNs).sum

/-- The levels of a symbol, cycle by cycle (R104, R105, R106 at level C). -/
def symLevels : Sym → List Level
  | .t1 => List.replicate Config.cycT1H .h ++ List.replicate Config.cycT1L .l
  | .t0 => List.replicate Config.cycT0H .h ++ List.replicate Config.cycT0L .l
  | .reset => List.replicate Config.cycReset .l

/-- The waveform of a list of symbols at level C. -/
def waveform (ys : List Sym) : List Level := ys.flatMap symLevels

/-- The one-bits of a byte. -/
def byteOnes (t : Byte) : Nat := ([7, 6, 5, 4, 3, 2, 1, 0].filter fun j => t.getLsbD j).length

/-- `k`: the one-bits of a byte list (R118). -/
def onesIn (t : List Byte) : Nat := (t.map byteOnes).sum

/-- The duration of a transmission of the bytes in cycles, from the edge of R110 to the edge of R115 (R118). -/
def durationCycles (t : List Byte) : Nat :=
  onesIn t * (Config.cycT1H + Config.cycT1L)
    + (8 * t.length - onesIn t) * (Config.cycT0H + Config.cycT0L) + Config.cycReset

/-- The maximal runs of equal level of a trace (R121). -/
def runsOf : List Level → List (Level × Nat)
  | [] => []
  | v :: rest =>
    match runsOf rest with
    | [] => [(v, 1)]
    | (w, n) :: more => if v = w then (v, n + 1) :: more else (v, 1) :: (w, n) :: more

/-- The symbol a high run stands for (R121). -/
def symOfHighRun (n : Nat) : List Sym :=
  if n = Config.cycT1H then [.t1] else if n = Config.cycT0H then [.t0] else []

/-- Reading runs as symbols (R121): a high run gives its bit; the last low run, if it holds the `CYC_RESET`
cycles, gives `RESET`. -/
def readRuns : List (Level × Nat) → List Sym
  | [] => []
  | (.h, n) :: rest => symOfHighRun n ++ readRuns rest
  | (.l, n) :: rest =>
    if rest.isEmpty && decide (Config.cycReset ≤ n) then [.reset] else readRuns rest
  | (.z, _) :: rest => readRuns rest

/-- The symbols an observer reads from a level-C trace (R121). -/
def readTrace (levels : List Level) : List Sym := readRuns (runsOf levels)

end Sys2Proof.Machine
end

