-- ==== Sys2Proof/Machine/TextLayer.lean ====
section
/-! DEFINITION. The host's text layer (43_text_layer_pseudo_ops.md): three procedures that expand into command
sequences. They are not decoded by the block and add no state to it (R82, R190 to R194). -/

namespace Sys2Proof.Machine

/-- `Glyph` (R190): character, row 0 to 5, column 0 to 3; consulted nowhere else. -/
abbrev Glyph := Char → Nat → Nat → Bool

/-- The font of R190: OPEN, but for "unsupported characters render as blank". -/
def hostGlyph : Glyph := fun ch gr gc => Config.fontSupports ch && Config.fontBitmap ch gr gc

/-- `DRAW_CHAR ch, row, col, color` (R191): one command for each lit pixel whose coordinates fit `i16`. -/
def drawChar (glyph : Glyph) (ch : Char) (row col : Int) (color : Packed) : List Instr :=
  (List.range 6).flatMap fun gr => (List.range 4).filterMap fun gc =>
    if glyph ch gr gc && fitsI16 (col + gc) && fitsI16 (row + gr) then
      some (.drawPixelPacked (col + gc) (row + gr) color)
    else none

/-- `DRAW_TEXT string, row, col, color` (R192): 5 columns for each character. -/
def drawText (glyph : Glyph) : List Char → (row col : Int) → Packed → List Instr
  | [], _, _, _ => []
  | ch :: rest, row, col, color =>
    drawChar glyph ch row col color ++ drawText glyph rest row (col + 5) color

/-- The rendered width of a string, `w = 5 × len(string)` (R194). -/
def textWidth (text : List Char) : Int := 5 * (text.length : Int)

/-- The `x` a scroll step returns (R193): the test follows the decrement. -/
def scrollNext (text : List Char) (x : Int) : Int :=
  if x - 1 < -textWidth text then (Config.width : Int) else x - 1

/-- `SCROLL_STEP string, row, x, color -> newX` (R193). -/
def scrollStep (glyph : Glyph) (text : List Char) (row x : Int) (color : Packed) : List Instr × Int :=
  (.clear :: drawText glyph text row x color ++ [.showFrame], scrollNext text x)

/-- The host issues commands one after another, each to completion (R50). -/
def issueAll : List Instr → State → Host.Outcome State Fault Refusal
  | [], s => .next s
  | i :: rest, s =>
    match exec i s with
    | .next s' => issueAll rest s'
    | .fault f => .fault f
    | .refused r => .refused r

end Sys2Proof.Machine
end

