-- ==== Sys2Proof/Safety.lean ====
section
/-! DEFINITION. What counts as a good state and a good run: the invariants of 10_state.md R30 with what they rest
on, the host's duties at the port (R238), and the premise about tolerances (R7, D29). -/

namespace Sys2Proof.Machine

/-- The invariants of R30, and those of the model that they need: memories in canonical form, every byte a
later read needs written, the timer inside its phase (R122). -/
structure State.Inv (s : State) : Prop where
  /-- `FB` is in canonical form, inside its 768 offsets (R30 a, R40). -/
  fb_wf : s.fb.wf = true
  /-- `TXBUF` is in canonical form, inside its 768 offsets (R30 a, R40). -/
  txbuf_wf : s.txbuf.wf = true
  /-- After construction every byte of `FB` has been written (R14, R28). -/
  fb_full : s.mode ≠ .unbound → s.fb.full = true
  /-- A transmission reads only bytes its `SHOW` wrote (R15). -/
  txbuf_full : s.mode.transmitting = true ∨ s.showPending = true → s.txbuf.full = true
  /-- R30 (b). -/
  unbound_iff : s.mode = .unbound ↔ s.dout = .z
  /-- R30 (c). -/
  idle_low : s.mode = .idle → s.dout = .l
  /-- R30 (d). -/
  latch_low : s.mode = .latch → s.dout = .l
  /-- R30 (e). -/
  high_only : s.dout = .h → s.mode = .sending ∧ s.phase = .hi
  /-- The line is high throughout a high phase (R112). -/
  high_phase : s.mode = .sending → s.phase = .hi → s.dout = .h
  /-- R30 (f), the cursor. -/
  cursor : s.mode = .sending → s.txi < s.txlen
  /-- R30 (f), the length (R18). -/
  length : s.mode.transmitting = true → s.txlen = BitVec.ofNat 16 Config.fbLen
  /-- A high phase lasts no longer than its count (R112, R122). -/
  high_timer : s.mode = .sending → s.phase = .hi → s.tmr.toNat < cycHigh s.curBit
  /-- A low phase lasts no longer than its count (R113, R122). -/
  low_timer : s.mode = .sending → s.phase = .lo → s.tmr.toNat < cycLow s.curBit
  /-- The latch gap lasts no longer than its count (R115). -/
  latch_timer : s.mode = .latch → s.tmr.toNat < Config.cycReset
  /-- No `BUSY_CYC` wait runs during a transmission (R23). -/
  busy_zero : s.mode.transmitting = true → s.busy = 0
  /-- A `SHOW` waits for its first bit only in `IDLE` (R110). -/
  pending : s.showPending = true → s.mode = .idle ∧ 0 < s.busy
  /-- There are 256 LEDs (R26). -/
  leds_length : s.leds.length = Config.numLeds
  /-- The count of low cycles stops at `CYC_RESET`. -/
  lowCyc_le : s.lowCyc ≤ Config.cycReset

/-- A constructed block that can accept a command: `MODE` = `IDLE` and no `BUSY_CYC` wait pending (R23, R152). -/
def State.idleReady (s : State) : Prop := s.mode = .idle ∧ s.busy = 0

/-- The next step is not a hardware reset. -/
def State.noReset (s : State) : Prop := ∀ valid w rest, s.stimuli ≠ .edge true valid w :: rest

/-- The host offers a word to the port at the next step. -/
def State.offers (s : State) (w : CmdWord) : Prop :=
  ∃ rest, s.stimuli = .command w :: rest ∨ s.stimuli = .edge false true w :: rest

/-- The host still offers `w` at its next clock edge (R238). A write of `IE_host` takes no clock edge, a command of
level S is offered until it is accepted, and an empty list is an edge with nothing offered (log entry 3). -/
def keepsOffering (w : CmdWord) : List Stimulus → Bool
  | [] => false
  | .command w' :: _ => w' == w
  | .edge _ valid w' :: _ => valid && w' == w
  | .hostIe _ :: rest => keepsOffering w rest

/-- The host's duty at one step (R238, R23): a word offered at a clock edge that does not accept it, because the
block is not ready or `rst` = 1 (R205), stays offered at the next edge with the same `cmd_word`. -/
def State.offerHeld (s : State) : Bool :=
  match s.stimuli with
  | [] => true
  | .command _ :: _ => true
  | .edge rst valid w :: rest => !valid || (!rst && s.cmdReady) || keepsOffering w rest
  | .hostIe _ :: _ => true

/-- The host's port discipline (R238): in every state the run reaches, an offer not yet accepted is held. -/
def State.portDisciplined (s : State) : Prop :=
  ∀ (n : Nat) (t : State), Host.Core.run Sys2Proof.core n s = .next t → t.offerHeld = true

/-- A run of `n` steps that meets nothing to which the spec gives no meaning. -/
def runsSafely (n : Nat) (s : State) : Prop := ∃ t, Host.Core.run Sys2Proof.core n s = .next t

/-- The deviation of a phase from its nominal time, in picoseconds (R116). -/
def deviationPs (cycles ns : Nat) : Nat :=
  ((cycles * (1000000000000 / Config.clkHz) : Int) - ns * 1000).natAbs

/-- Every phase of a bit is within a tolerance of its nominal time (R7 `TOL_NS`, D29). -/
def phasesWithin (tolNs : Nat) : Prop :=
  deviationPs Config.cycT1H Config.nsT1H ≤ tolNs * 1000 ∧
  deviationPs Config.cycT1L Config.nsT1L ≤ tolNs * 1000 ∧
  deviationPs Config.cycT0H Config.nsT0H ≤ tolNs * 1000 ∧
  deviationPs Config.cycT0L Config.nsT0L ≤ tolNs * 1000

/-- The premise a claim that the chain decodes the waveform needs (D29); `TOL_NS` is OPEN. -/
def chainDecodesPhases : Prop := phasesWithin Config.tolNs

end Sys2Proof.Machine
end

