-- ==== Sys2Proof/Certificates/Slice0/Obligations.lean ====
section
/-! DEFINITION. The statements about the machine, for the provers. Each docstring names the rule of spec/ it
formalises, or says that it is derived and from what. -/

open Sys2Proof Sys2Proof.Machine

/-! ### The encoding (30_encoding.md) -/

/-- Decode and encode agree, for all six commands and every operand value the encoding admits. -/
def Obligations.DecodeOfEncodeIsTheCommand : Prop :=
  ∀ i : Instr, i.wf = true → decodeWord (encode i) = .ok i

/-- R83: the encoding function as one arithmetic expression, format by format. -/
def Obligations.EncodeIsTheFormula : Prop :=
  (∀ pin : PinId, (encode (.panelInit pin)).toNat = 1 * 2 ^ 60 + pin.toNat) ∧
  (∀ level : Byte, (encode (.setBrightness level)).toNat = 2 * 2 ^ 60 + level.toNat) ∧
  (encode .clear).toNat = 3 * 2 ^ 60 ∧
  (∀ (x y : Int) (r g b : Byte), ((encode (.drawPixel x y r g b)).toNat : Int) =
    4 * 2 ^ 60 + (x % 65536) * 2 ^ 40 + (y % 65536) * 2 ^ 24 + r.toNat * 2 ^ 16 + g.toNat * 2 ^ 8 + b.toNat) ∧
  (∀ (x y : Int) (color : Packed), ((encode (.drawPixelPacked x y color)).toNat : Int) =
    5 * 2 ^ 60 + (x % 65536) * 2 ^ 40 + (y % 65536) * 2 ^ 24 + color.toNat) ∧
  (encode .showFrame).toNat = 6 * 2 ^ 60

/-- Derived from R77 and R78: what the decoder gives is well formed, and its canonical word is the decoded word
with the bits its format does not use cleared. -/
def Obligations.DecodedWordIsCanonicalOnUsedBits : Prop :=
  ∀ (w : CmdWord) (i : Instr), decodeWord w = .ok i → i.wf = true ∧ encode i = w &&& i.usedBits

/-- R78: two words that differ only in unused bits are the same command, and the canonical word has all unused
bits 0. -/
def Obligations.UnusedBitsAreIgnored : Prop :=
  (∀ (w w' : CmdWord) (i : Instr), decodeWord w = .ok i → w &&& i.usedBits = w' &&& i.usedBits →
    decodeWord w' = .ok i) ∧
  (∀ i : Instr, encode i &&& ~~~i.usedBits = 0#64)

/-- R80, R72: the opcode alone decides which command a word is, opcodes 0 and 7 to 15 are rejected, and
the operands are the fields as R77 slices them. -/
def Obligations.OpcodeDecidesTheCommand : Prop :=
  ∀ w : CmdWord, let op := (w.extractLsb' 60 4).toNat
    (op = 1 → decodeWord w = .ok (.panelInit (w.extractLsb' 0 8))) ∧
    (op = 2 → decodeWord w = .ok (.setBrightness (w.extractLsb' 0 8))) ∧
    (op = 3 → decodeWord w = .ok .clear) ∧
    (op = 4 → decodeWord w = .ok (.drawPixel (w.extractLsb' 40 16).toInt (w.extractLsb' 24 16).toInt
      (w.extractLsb' 16 8) (w.extractLsb' 8 8) (w.extractLsb' 0 8))) ∧
    (op = 5 → decodeWord w = .ok (.drawPixelPacked (w.extractLsb' 40 16).toInt (w.extractLsb' 24 16).toInt
      (w.extractLsb' 0 24))) ∧
    (op = 6 → decodeWord w = .ok .showFrame) ∧
    (op = 0 ∨ 7 ≤ op → decodeWord w = .error (.reservedOpcode (w.extractLsb' 60 4)))

/-- Derived from the example words of R81: each decodes to the command it is listed for. -/
def Obligations.ListedWordsDecodeToTheirCommands : Prop :=
  decodeWord 0x1000000000000006#64 = .ok (.panelInit 6#8) ∧
  decodeWord 0x2000000000000080#64 = .ok (.setBrightness 128#8) ∧
  decodeWord 0x3000000000000000#64 = .ok .clear ∧
  decodeWord 0x4000010000FF0000#64 = .ok (.drawPixel 1 0 255#8 0#8 0#8) ∧
  decodeWord 0x40FFFF0000010203#64 = .ok (.drawPixel (-1) 0 1#8 2#8 3#8) ∧
  decodeWord 0x50001F0007112233#64 = .ok (.drawPixelPacked 31 7 0x112233#24) ∧
  decodeWord 0x6000000000000000#64 = .ok .showFrame

/-! ### The step and the port (R23, R50, R152, R153, R205) -/

/-- Derived from R50 and R152: when the block can accept a command and the host issues one, the step is the
meaning of the decoded command, with that stimulus used up. -/
def Obligations.StepRunsTheIssuedCommand : Prop :=
  ∀ (s : State) (w : CmdWord) (rest : List Stimulus) (i : Instr),
    s.stimuli = .command w :: rest → s.cmdReady = true → decodeWord w = .ok i →
    step s = exec i { s with stimuli := rest }

/-- Derived from R23 and R153: at a clock edge with `cmd_valid` = 1 and `cmd_ready` = 1 every command but `SHOW`
has its whole meaning at that edge, and the cycle that begins is recorded: at the default `BUSY_CYC` of R7 (log entry
10), so that no wait follows `PANEL_INIT` or `CLEAR`. -/
def Obligations.EdgeCompletesEveryCommandButShow : Prop :=
  ∀ (s t : State) (w : CmdWord) (rest : List Stimulus) (i : Instr),
    s.stimuli = .edge false true w :: rest → s.cmdReady = true → decodeWord w = .ok i → i ≠ .showFrame →
    exec i { s with stimuli := rest } = .next t → step s = .next (observe t)

/-- R110, at the default `BUSY_CYC(SHOW)` = 0: the edge that accepts `SHOW` makes the copy and starts the first
bit. -/
def Obligations.EdgeStartsTheFrame : Prop :=
  ∀ (s : State) (w : CmdWord) (rest : List Stimulus),
    s.stimuli = .edge false true w :: rest → s.idleReady → decodeWord w = .ok .showFrame →
    ∃ t, step s = .next t ∧ t.mode = .sending ∧ t.txlen = 768#16 ∧ t.txi = 0#16 ∧ t.biti = 7#3 ∧
      t.phase = .hi ∧ t.dout = .h ∧
      t.tmr = BitVec.ofNat 16
        ((if (scale (s.fbByte 0) s.bright).getLsbD 7 then Config.cycT1H else Config.cycT0H) - 1) ∧
      t.irqInhibit = true ∧ t.cmdReady = false ∧
      (∀ a < 768, t.txbuf.read a = some (scale (s.fbByte a) s.bright)) ∧
      t.fb = s.fb ∧ t.bright = s.bright ∧ t.pin = s.pin ∧ t.ieHost = s.ieHost ∧ t.wire = s.wire ∧
      t.leds = s.leds ∧ t.stimuli = rest

/-- Derived from R201, the `refuse` rows at the default `PinSupported`: a step is refused exactly when an accepted word
has a reserved opcode, or is a command other than `PANEL_INIT` before construction. -/
def Obligations.StepRefusesExactlyTheMeaninglessWords : Prop :=
  ∀ s : State, (∃ r, step s = .refused r) ↔
    s.cmdReady = true ∧ ∃ w, s.offers w ∧
      ((∃ op, decodeWord w = .error (.reservedOpcode op)) ∨
        (s.mode = .unbound ∧ ∃ i, decodeWord w = .ok i ∧ ∀ pin, i ≠ .panelInit pin))

/-- Derived from R152: before construction every command but `PANEL_INIT` is refused, by name. -/
def Obligations.CommandsBeforeConstructionAreRefused : Prop :=
  ∀ s : State, s.mode = .unbound → s.busy = 0 →
    (∀ level, exec (.setBrightness level) s = .refused (.notConstructed "SET_BRIGHTNESS")) ∧
    exec .clear s = .refused (.notConstructed "CLEAR") ∧
    (∀ x y r g b, exec (.drawPixel x y r g b) s = .refused (.notConstructed "DRAW_PIXEL")) ∧
    (∀ x y color, exec (.drawPixelPacked x y color) s = .refused (.notConstructed "DRAW_PIXEL_PACKED")) ∧
    exec .showFrame s = .refused (.notConstructed "SHOW")

/-- Derived from R152: while a transmission runs an offered command is neither accepted nor lost. The step is
one clock edge of the block, whatever the word, and a command the host holds is still the next thing it does. -/
def Obligations.OfferedCommandWaitsDuringFrame : Prop :=
  ∀ (s : State) (w : CmdWord) (rest : List Stimulus), s.mode.transmitting = true →
    (s.stimuli = .command w :: rest →
      ∃ t, step s = .next t ∧ t = clockEdge s ∧ t.stimuli = .command w :: rest ∧ t.fb = s.fb ∧
        t.bright = s.bright ∧ t.pin = s.pin ∧ t.txbuf = s.txbuf) ∧
    (∀ valid, s.stimuli = .edge false valid w :: rest →
      ∃ t, step s = .next t ∧ t = clockEdge { s with stimuli := rest } ∧ t.fb = s.fb ∧
        t.bright = s.bright ∧ t.pin = s.pin ∧ t.txbuf = s.txbuf)

/-- Derived from R50, R70 and R152: a program of well-formed commands that begins with `PANEL_INIT`, issued word by
word, runs to its end without meeting anything refused, and gives what its commands give one after another. That
no pin is refused is the default `PinSupported` of R7 (R100; the model's choice, log entry 12). -/
def Obligations.IssuedProgramRunsToItsEnd : Prop :=
  ∀ (s : State) (pin : PinId) (is : List Instr), s.cmdReady = true → (∀ i ∈ is, i.wf = true) →
    s.stimuli = (Instr.panelInit pin :: is).map (fun i => Stimulus.command (encode i)) →
    runsSafely (is.length + 1) s ∧
    Host.Core.run Sys2Proof.core (is.length + 1) s =
      issueAll (.panelInit pin :: is) { s with stimuli := [] }

/-- Derived from R200, R201, R79 and R152: what a step answers. With no word offered to a ready block it is a
next state. With one it is the refusal of the word's own opcode where the opcode is reserved, the refusal of the
command by its mnemonic before construction, and a next state for every other command. So no step ends in a fault
(log entry 18), and for no other reason is a step refused: at the default `PinSupported` (R7, log entry 12) not
for its pin either. -/
def Obligations.EveryStepHasOneOfThreeOutcomes : Prop :=
  ∀ s : State,
    ((s.cmdReady = false ∨ ∀ w, ¬ s.offers w) → ∃ t, step s = .next t) ∧
    ∀ w, s.cmdReady = true → s.offers w →
      (∀ e, decodeWord w = .error e → step s = .refused (.reservedOpcode (w.extractLsb' 60 4))) ∧
      ∀ i, decodeWord w = .ok i →
        (s.mode = .unbound → (∀ pin, i ≠ .panelInit pin) → step s = .refused (.notConstructed i.mnemonic)) ∧
        ((s.mode ≠ .unbound ∨ ∃ pin, i = .panelInit pin) → ∃ t, step s = .next t)

/-! ### Hardware reset (R27, R230, R233) -/

/-- Derived from R230 with the table of R27: an edge with `rst` = 1 gives the reset state from every state,
transmitting or not, whatever is offered with it; the host's `IE_host` is not changed. That both histories are
empty after a reset inside a transmission is the model's reading of R27 and R25 beside R233 (log entry 6). -/
def Obligations.ResetEdgeGivesTheResetState : Prop :=
  ∀ (s : State) (valid : Bool) (w : CmdWord) (rest : List Stimulus), s.stimuli = .edge true valid w :: rest →
    ∃ t, step s = .next t ∧ t.mode = .unbound ∧ t.dout = .z ∧ t.cmdReady = true ∧ t.irqInhibit = false ∧
      t.wire = [] ∧ t.trace = [] ∧ t.ieHost = s.ieHost ∧ t.stimuli = rest

/-- R27: the state the machine is in right after reset, as far as the rule gives it. -/
def Obligations.ResetStateIsAsTabulated : Prop :=
  State.reset.mode = .unbound ∧ State.reset.dout = .z ∧ State.reset.cmdReady = true ∧
  State.reset.irqInhibit = false ∧ State.reset.wire = [] ∧ State.reset.trace = []

/-- The model's form of "unspecified" in R27 (log entries 1, 2 and 8): after a reset edge neither memory lists a
byte, and every byte, `BRIGHT`, `PIN`, `TXLEN`, the cursor, `TMR` and `LEDS` hold free values of a fresh draw. -/
def Obligations.ResetLeavesFreshFreeValues : Prop :=
  ∀ (s : State) (valid : Bool) (w : CmdWord) (rest : List Stimulus), s.stimuli = .edge true valid w :: rest →
    ∃ t, step s = .next t ∧ s.draws < t.epoch ∧
      (∀ a, t.fb.read a = none ∧ t.fbByte a = Config.unwrittenFb t.epoch a) ∧
      (∀ a, t.txbuf.read a = none ∧ t.txByte a = Config.unwrittenTx t.epoch a) ∧
      t.bright = Config.resetBright t.epoch ∧ t.pin = Config.resetPin t.epoch ∧
      t.txlen = Config.resetTxlen t.epoch ∧ t.txi = Config.resetTxi t.epoch ∧
      t.biti = Config.resetBiti t.epoch ∧ t.phase = Config.resetPhase t.epoch ∧
      t.tmr = Config.resetTmr t.epoch ∧ t.leds = freeLeds t.epoch

/-- R17: after construction the line is low whenever no bit is being sent, "is never `Z` again until the next
hardware reset", and is high only inside the high phase of a bit; before construction it is `Z`. -/
def Obligations.LineStaysDrivenUntilReset : Prop :=
  ∀ s t : State, s.Inv → s.noReset → step s = .next t →
    (s.mode ≠ .unbound → t.mode ≠ .unbound ∧ t.dout ≠ .z) ∧
    (t.mode = .unbound → t.dout = .z) ∧
    (t.mode = .idle ∨ t.mode = .latch → t.dout = .l) ∧
    (t.dout = .h → t.mode = .sending ∧ t.phase = .hi)

/-! ### Construction, brightness, clear (R28, R100, R142, R143) -/

/-- Derived from R28 and R100: the state after `PANEL_INIT pin`, from `UNBOUND` and from `IDLE`; and everything else
is as before. Offsets outside the buffer hold nothing. That it completes for every pin is the default
`PinSupported` of R7 (log entry 12), and that `cmd_ready` is 1 at once the default `BUSY_CYC` (log entry 10). -/
def Obligations.PanelInitConstructs : Prop :=
  ∀ (s : State) (pin : PinId), s.cmdReady = true →
    ∃ t, exec (.panelInit pin) s = .next t ∧
      t = { s with mode := .idle, pin := pin, dout := .l, bright := 255#8, fb := t.fb, lowCyc := t.lowCyc } ∧
      (∀ a, t.fb.read a = if a < 768 then some 0#8 else none) ∧
      t.irqInhibit = false ∧ t.cmdReady = true

/-- Derived from R100: `SD.initialize` for any `PinSupported`: the pin bound and the line driven low, nothing on `WIRE`; an
unsupported pin has no meaning. That it runs inside a transmission too is the model's choice (log entry 22). -/
def Obligations.InitializeBindsSupportedPins : Prop :=
  ∀ (supported : PinId → Bool) (pin : PinId) (s : State),
    (supported pin = false → sdInitialize supported pin s = none) ∧
    (supported pin = true → ∃ t, sdInitialize supported pin s = some t ∧
      t = { s with pin := pin, dout := .l, lowCyc := t.lowCyc })

/-- Derived from R49: every command completes. Run twice, a command other than `SHOW` gives exactly the state of
running it once, and puts nothing on `WIRE`. `SHOW` run twice gives the `FB`, `BRIGHT`, `PIN`, `DOUT` and `TXBUF` of
running it once and appends the same frame again; `LEDS` may differ after a first frame whose premise was not met
(log entry 7). That `PANEL_INIT` completes for every pin is the default `PinSupported` of R7 (R100, log entry 12). -/
def Obligations.CommandTwiceIsOnceButForTheWire : Prop :=
  ∀ (i : Instr) (s : State), s.cmdReady = true → (s.mode = .unbound → ∃ pin, i = .panelInit pin) →
    s.fb.wf = true →
    ∃ t u, exec i s = .next t ∧ exec i t = .next u ∧ u.fb = t.fb ∧ u.bright = t.bright ∧ u.pin = t.pin ∧
      u.dout = t.dout ∧ u.txbuf = t.txbuf ∧
      (i ≠ .showFrame → u = t ∧ t.wire = s.wire) ∧
      (i = .showFrame → t.fb = s.fb ∧
        ∃ frame, frame.length = 6145 ∧ t.wire = s.wire ++ frame ∧ u.wire = t.wire ++ frame)

/-- R142: `BRIGHT <- level` and nothing else changes. -/
def Obligations.SetBrightnessStoresTheLevel : Prop :=
  ∀ (s : State) (level : Byte), s.idleReady →
    exec (.setBrightness level) s = .next { s with bright := level }

/-- R143: every byte of `FB` is zero afterwards and nothing else changes. -/
def Obligations.ClearZeroesTheFramebuffer : Prop :=
  ∀ s : State, s.idleReady →
    ∃ fb', exec .clear s = .next { s with fb := fb' } ∧
      ∀ a, fb'.read a = if a < 768 then some 0#8 else none

/-! ### Pixels (R144 to R147, R54, R44, R45) -/

/-- R144, with R145 and R147: in bounds exactly the three bytes at `3 × Map(x, y)` change, to green, red, blue; out
of bounds nothing changes. Every other piece of state is as before in both cases. -/
def Obligations.DrawPixelStoresOneTriple : Prop :=
  ∀ (s : State) (x y : Int) (r g b : Byte), s.idleReady →
    (0 ≤ x ∧ x < 32 ∧ 0 ≤ y ∧ y < 8 →
      ∃ fb', exec (.drawPixel x y r g b) s = .next { s with fb := fb' } ∧
        fb'.read (3 * map x.toNat y.toNat) = some g ∧
        fb'.read (3 * map x.toNat y.toNat + 1) = some r ∧
        fb'.read (3 * map x.toNat y.toNat + 2) = some b ∧
        ∀ a, a < 3 * map x.toNat y.toNat ∨ 3 * map x.toNat y.toNat + 2 < a → fb'.read a = s.fb.read a) ∧
    (¬ (0 ≤ x ∧ x < 32 ∧ 0 ≤ y ∧ y < 8) → exec (.drawPixel x y r g b) s = .next s)

/-- Derived from R146: the packed form is the channel form with red in bits 23 to 16, green in 15 to 8, blue in 7 to
0, and it completes. Which bits are which channel is R45 and decision D10, the presumed layout of log entry 11. -/
def Obligations.PackedPixelIsThePixelOfItsChannels : Prop :=
  ∀ (s : State) (x y : Int) (color : Packed), s.idleReady →
    ∃ t, exec (.drawPixelPacked x y color) s = .next t ∧
      exec (.drawPixel x y (color.extractLsb' 16 8) (color.extractLsb' 8 8) (color.extractLsb' 0 8)) s =
        .next t ∧
      t = { s with fb := t.fb }

/-- Derived from R54: the last write to a coordinate wins, whole, wherever the coordinate is. -/
def Obligations.LastPixelWriteWins : Prop :=
  ∀ (s : State) (x y : Int) (r g b r' g' b' : Byte), s.idleReady → s.fb.wf = true →
    ∃ t u, exec (.drawPixel x y r g b) s = .next t ∧ exec (.drawPixel x y r' g' b') t = .next u ∧
      exec (.drawPixel x y r' g' b') s = .next u

/-- Derived from R182 and R147 (S4e): a pixel write leaves the stored triple of every other in-panel coordinate
as it was. -/
def Obligations.PixelWriteTouchesNoOtherLed : Prop :=
  ∀ (s t : State) (x y x' y' : Nat) (r g b : Byte), s.idleReady →
    x < 32 → y < 8 → x' < 32 → y' < 8 → (x, y) ≠ (x', y') →
    exec (.drawPixel x y r g b) s = .next t →
    t.storedTriple (map x y) = [g, r, b] ∧ t.storedTriple (map x' y') = s.storedTriple (map x' y')

/-! ### The geometry map (R180 to R186) -/

/-- R182: `Map` is a bijection onto 0 … 255, with the inverse the rule gives. -/
def Obligations.MapIsABijection : Prop :=
  (∀ x < 32, ∀ y < 8, map x y < 256 ∧ unmapX (map x y) = x ∧ unmapY (map x y) = y) ∧
  (∀ p < 256, unmapX p < 32 ∧ unmapY p < 8 ∧ map (unmapX p) (unmapY p) = p)

/-- R186: the table of tile 0, and every other tile `t` as that table plus `64 t`. -/
def Obligations.MapIsTheTable : Prop :=
  ((List.range 8).map fun y => (List.range 8).map fun x => map x y) =
    [[0, 15, 16, 31, 32, 47, 48, 63], [1, 14, 17, 30, 33, 46, 49, 62],
     [2, 13, 18, 29, 34, 45, 50, 61], [3, 12, 19, 28, 35, 44, 51, 60],
     [4, 11, 20, 27, 36, 43, 52, 59], [5, 10, 21, 26, 37, 42, 53, 58],
     [6, 9, 22, 25, 38, 41, 54, 57], [7, 8, 23, 24, 39, 40, 55, 56]] ∧
  ∀ t < 4, ∀ x < 8, ∀ y < 8, map (x + 8 * t) y = map x y + 64 * t

/-! ### The scaler (R149 to R151) -/

/-- R149: the identity at 255, otherwise the truncated high byte of the product, as numbers. -/
def Obligations.ScaleIsTheTruncatedProduct : Prop :=
  ∀ v s : Byte,
    (scale v s).toNat = (if s = 255#8 then v.toNat else v.toNat * s.toNat / 256) ∧
    (s ≠ 255#8 → (scaleProduct v s).toNat = v.toNat * s.toNat ∧ v.toNat * s.toNat ≤ 64770 ∧
      (scale v s).toNat ≤ 253)

/-- R150, (a) to (f). -/
def Obligations.ScaleProperties : Prop :=
  (∀ v, scale v 255#8 = v) ∧ (∀ v, scale v 0#8 = 0#8) ∧ (∀ s, scale 0#8 s = 0#8) ∧
  (∀ v s : Byte, s.toNat < 255 → 1 ≤ v.toNat → (scale v s).toNat ≤ v.toNat - 1) ∧
  (∀ s : Byte, 1 ≤ s.toNat → s.toNat ≤ 254 → (scale 255#8 s).toNat = s.toNat - 1) ∧
  (∀ v s : Byte, s.toNat < 255 → (scale v s).toNat ≠ 254) ∧
  (∀ v v' s : Byte, v.toNat ≤ v'.toNat → (scale v s).toNat ≤ (scale v' s).toNat) ∧
  (∀ v s s' : Byte, s.toNat ≤ s'.toNat → (scale v s).toNat ≤ (scale v s').toNat) ∧
  (∀ s : Byte, s.toNat < 255 → scale 1#8 s = 0#8)

/-! ### The flush (R148, R26, R49) -/

/-- Derived from R148, as one step of level S: `TXBUF` is the scaled copy, `WIRE` gets the frame's symbols, `FB`,
`BRIGHT`, `PIN`, `IE_host` and the recorded cycles are unchanged, and the block is `IDLE`, its line low, and ready
again. `TXLEN`, the cursor and `TMR` are written (log entry 4), and nothing is stated of them here. -/
def Obligations.ShowSendsTheScaledCopy : Prop :=
  ∀ s : State, s.idleReady →
    ∃ t, exec .showFrame s = .next t ∧
      (∀ a, t.txbuf.read a = if a < 768 then some (scale (s.fbByte a) s.bright) else none) ∧
      t.wire = s.wire ++ dataSymbols ((List.range 768).map fun a => scale (s.fbByte a) s.bright) ++ [.reset] ∧
      t.fb = s.fb ∧ t.bright = s.bright ∧ t.pin = s.pin ∧ t.mode = .idle ∧ t.dout = .l ∧
      t.ieHost = s.ieHost ∧ t.busy = s.busy ∧ t.stimuli = s.stimuli ∧ t.trace = s.trace ∧
      t.cmdReady = true ∧ t.irqInhibit = false

/-- Derived from R26, under the premise of decision D20 (log entry 7): the LEDs show the scaled frame, LED by LED. -/
def Obligations.ShowLightsTheLeds : Prop :=
  ∀ s : State, s.idleReady → Config.cycReset ≤ s.lowCyc →
    ∃ t, exec .showFrame s = .next t ∧ t.leds.length = 256 ∧
      ∀ p < 256, t.leds[p]? = some
        { red := scale (s.fbByte (3 * p + 1)) s.bright, green := scale (s.fbByte (3 * p)) s.bright,
          blue := scale (s.fbByte (3 * p + 2)) s.bright }

/-- Derived from R148, corner case (d): two flushes with nothing between send the same frame twice, and the second is always
displayed, whatever came before the first. -/
def Obligations.TwoShowsSendTheSameFrame : Prop :=
  ∀ s : State, s.idleReady →
    ∃ t u frame, exec .showFrame s = .next t ∧ exec .showFrame t = .next u ∧
      frame.length = 6145 ∧ t.wire = s.wire ++ frame ∧ u.wire = s.wire ++ frame ++ frame ∧
      u.txbuf = t.txbuf ∧ u.fb = s.fb ∧ u.leds = ledsOfTxbuf u

/-- Derived from R148, R142 and R150: flushing at any brightness loses nothing, a later flush at 255 sends `FB`
byte for byte. -/
def Obligations.BrightnessIsNonDestructive : Prop :=
  ∀ (s : State) (level : Byte), s.idleReady →
    ∃ t, issueAll [.setBrightness level, .showFrame, .setBrightness 255#8, .showFrame] s = .next t ∧
      t.fb = s.fb ∧ ∀ a < 768, t.txByte a = s.fbByte a

/-! ### The serializer at level S (R43, R107, R108) -/

/-- R43: wire bit `k` is bit `7 − k mod 8` of byte `k div 8`, for every byte list. -/
def Obligations.WireBitsAreMsbFirst : Prop :=
  ∀ (t : List Byte) (k : Nat), (dataSymbols t)[k]? =
    (t[k / 8]?).map fun b => if b.getLsbD (7 - k % 8) then Sym.t1 else Sym.t0

/-- Derived from R107: a transmission of `n` ≥ 1 bytes appends the `8n` data symbols and one `RESET`, and what it does not
touch. The block has `n` = 768; that a longer one runs, with a free value for each byte beyond `TXBUF`, is the
model's choice (log entry 21), and so is that it runs from a `MODE` other than `IDLE` (log entry 22). -/
def Obligations.TransmitAppendsItsSymbols : Prop :=
  ∀ (n : BitVec 16) (s : State), n ≠ 0#16 →
    ∃ frame, (sdTransmit n s).wire = s.wire ++ frame ++ [.reset] ∧ frame.length = 8 * n.toNat ∧
      frame = dataSymbols ((List.range n.toNat).map s.txByte) ∧
      (sdTransmit n s).txbuf = s.txbuf ∧ (sdTransmit n s).fb = s.fb ∧ (sdTransmit n s).bright = s.bright ∧
      (sdTransmit n s).pin = s.pin ∧ (sdTransmit n s).ieHost = s.ieHost

/-- R108: a zero-length transmission changes no state, at either level. -/
def Obligations.ZeroLengthTransmitIsANoOp : Prop :=
  ∀ s : State, sdTransmit 0#16 s = s ∧ startTransmit 0#16 s = s ∧ transmitSymbols [] = []

/-! ### The clocked machine (R110 to R124) -/

/-- R111: counting. -/
def Obligations.TimerCountsDown : Prop :=
  ∀ s : State, s.mode.transmitting = true → s.tmr ≠ 0#16 → advance s = { s with tmr := s.tmr - 1#16 }

/-- R112: high to low. -/
def Obligations.HighPhaseEndsInLow : Prop :=
  ∀ s : State, s.mode = .sending → s.phase = .hi → s.tmr = 0#16 →
    advance s = { s with
      phase := .lo
      dout := .l
      tmr := BitVec.ofNat 16
        ((if (s.txByte s.txi.toNat).getLsbD s.biti.toNat then Config.cycT1L else Config.cycT0L) - 1) }

/-- Derived from R113, R114 and R25: low to the next bit, to the next byte, or to the latch gap; the finished bit's
symbol goes on `WIRE` at this edge, which is the model's reading of R25 (log entry 5). -/
def Obligations.LowPhaseAdvancesTheCursor : Prop :=
  ∀ s : State, s.mode = .sending → s.phase = .lo → s.tmr = 0#16 →
    let finished := if (s.txByte s.txi.toNat).getLsbD s.biti.toNat then Sym.t1 else Sym.t0
    let biti' : BitVec 3 := if s.biti = 0#3 then 7#3 else s.biti - 1#3
    let txi' : BitVec 16 := if s.biti = 0#3 then s.txi + 1#16 else s.txi
    (txi' = s.txlen → advance s = { s with
      wire := s.wire ++ [finished], biti := biti', txi := txi', mode := .latch
      tmr := BitVec.ofNat 16 (Config.cycReset - 1) }) ∧
    (txi' ≠ s.txlen → advance s = { s with
      wire := s.wire ++ [finished], biti := biti', txi := txi', phase := .hi, dout := .h
      tmr := BitVec.ofNat 16
        ((if (s.txByte txi'.toNat).getLsbD biti'.toNat then Config.cycT1H else Config.cycT0H) - 1) })

/-- Derived from R115: latch to idle, `RESET` on `WIRE` (at this edge: log entry 5), and the receiver's update (log
entry 7). -/
def Obligations.LatchEndsInIdle : Prop :=
  ∀ s : State, s.mode = .latch → s.tmr = 0#16 →
    (advance s).mode = .idle ∧ (advance s).wire = s.wire ++ [.reset] ∧ (advance s).dout = s.dout ∧
    (advance s).irqInhibit = false ∧ ((advance s).cmdReady = true ↔ s.busy = 0) ∧
    (s.txlen = 768#16 → s.armed = true → (advance s).leds = ledsOfTxbuf s) ∧
    (advance s).fb = s.fb ∧ (advance s).txbuf = s.txbuf ∧ (advance s).bright = s.bright

/-- Derived from R107, R118, R121 and R110 to R115: the clocked machine, started on any `n` ≥ 1 bytes, is after
exactly the cycles of R118 in the state the one step of level S gives, having put exactly the waveform of the
symbols on the line. That the states agree in `TXLEN`, the cursor and `TMR` too, which mean nothing in `IDLE`, is
the model's choice (log entry 4), and so are the place where a symbol joins `WIRE` (log entry 5),
the free bytes of a transmission longer than `TXBUF` (log entry 21), and the start from a `MODE` other than `IDLE`
(log entry 22). -/
def Obligations.ClockedMachineRefinesTransmit : Prop :=
  ∀ (n : BitVec 16) (s : State), n ≠ 0#16 →
    clockEdges (durationCycles (s.memReadTx 0 n.toNat)) (observe (startTransmit n s)) =
      { sdTransmit n s with
        trace := .l :: (waveform (transmitSymbols (s.memReadTx 0 n.toNat))).reverse ++ s.trace }

/-- Derived from R8, R110, R118 and R121: `SHOW` offered at a clock edge, then nothing but clock edges: after the
frame's cycles the machine is in the state `SHOW` gives at level S, but for the recorded cycles. It rests on the
default `BUSY_CYC(SHOW)` = 0 of R7 (log entry 10) and, for `TXLEN`, the cursor and `TMR`, on log entry 4. -/
def Obligations.ClockedShowReachesTheAtomicShow : Prop :=
  ∀ (s : State) (w : CmdWord), s.idleReady → s.stimuli = [.edge false true w] →
    decodeWord w = .ok .showFrame →
    ∃ t, exec .showFrame { s with stimuli := [] } = .next t ∧
      Host.Core.run Sys2Proof.core (1 + durationCycles (t.memReadTx 0 768)) s =
        .next { t with
          trace := .l :: (waveform (transmitSymbols (t.memReadTx 0 768))).reverse ++ s.trace }

/-- Derived from R121: an observer reads exactly the symbol list of R107 from the waveform. -/
def Obligations.WaveformReadsBackAsItsSymbols : Prop :=
  ∀ t : List Byte, t ≠ [] → readTrace (waveform (transmitSymbols t)) = transmitSymbols t

/-- R118: the duration in cycles and in nominal nanoseconds, and its bounds for a flush. -/
def Obligations.DurationOfATransmission : Prop :=
  ∀ t : List Byte, t ≠ [] →
    (waveform (transmitSymbols t)).length = durationCycles t ∧
    onesIn t ≤ 8 * t.length ∧
    durationCycles t = 21 * onesIn t + 19 * (8 * t.length - onesIn t) + 800 ∧
    nominalNs (transmitSymbols t) = 1300 * onesIn t + 1150 * (8 * t.length - onesIn t) + 50000 ∧
    (t.length = 768 → 117536 ≤ durationCycles t ∧ durationCycles t ≤ 129824)

/-- Derived from R124 and R118: a transmission always ends, and within the cycles of the longest flush. -/
def Obligations.TransmissionAlwaysEnds : Prop :=
  ∀ s : State, s.Inv → s.mode.transmitting = true →
    ∃ k, k ≤ 129824 ∧ (clockEdges k s).mode = .idle

/-- Derived from R124 and R152: a command the host keeps offering during a transmission is still offered when the
block can accept it, at level S and at level C, and nothing it could read has changed. -/
def Obligations.HeldOfferReachesAReadyBlock : Prop :=
  ∀ (s : State) (w : CmdWord) (rest : List Stimulus), s.Inv → s.mode.transmitting = true →
    s.stimuli = .command w :: rest ∨ s.stimuli = List.replicate 129825 (.edge false true w) ++ rest →
    ∃ k u, k ≤ 129824 ∧ Host.Core.run Sys2Proof.core k s = .next u ∧ u.cmdReady = true ∧ u.offers w ∧
      u.fb = s.fb ∧ u.bright = s.bright ∧ u.pin = s.pin

/-- Derived from R116: each default cycle count is the nominal time at `CLK_HZ`, to the nearest cycle, `CYC_RESET`
lasts at least 50 µs, the two high counts differ (R121), and every phase is within 25 ns of nominal. -/
def Obligations.CycleCountsFollowTheNominalTimes : Prop :=
  (∀ c n, (c, n) ∈ [(Config.cycT1H, Config.nsT1H), (Config.cycT1L, Config.nsT1L),
      (Config.cycT0H, Config.nsT0H), (Config.cycT0L, Config.nsT0L)] →
    c = (2 * n * Config.clkHz + 1000000000) / 2000000000) ∧
  Config.nsReset * Config.clkHz ≤ Config.cycReset * 1000000000 ∧
  Config.cycT1H ≠ Config.cycT0H ∧ phasesWithin 25

/-! ### The whole machine -/

/-- Derived from R30: the invariants hold right after reset. -/
def Obligations.InvHoldsAtReset : Prop := State.reset.Inv

/-- Derived from R30: every step keeps the invariants, from every state that has them. -/
def Obligations.StepKeepsInv : Prop := ∀ s t : State, s.Inv → step s = .next t → t.Inv

/-- Derived from R30 (h): `BRIGHT` and `FB` do not change during a transmission; nor do `PIN` and `TXBUF` (R102). -/
def Obligations.FramebufferIsFrozenDuringFrame : Prop :=
  ∀ s t : State, s.mode.transmitting = true → s.noReset → step s = .next t →
    t.bright = s.bright ∧ t.fb = s.fb ∧ t.pin = s.pin ∧ t.txbuf = s.txbuf

/-- Derived from R25: `WIRE` is append-only between hardware resets, at both levels. -/
def Obligations.WireOnlyGrows : Prop :=
  ∀ s t : State, s.noReset → step s = .next t →
    (∃ ys, t.wire = s.wire ++ ys) ∧ (∃ cs, t.cycleTrace = s.cycleTrace ++ cs)

/-- Derived from R25 and R51: of the six commands only `SHOW` puts anything on `WIRE` and only `SHOW` changes what
the LEDs show. -/
def Obligations.OnlyShowReachesTheWire : Prop :=
  ∀ (i : Instr) (s t : State), s.cmdReady = true → i ≠ .showFrame → exec i s = .next t →
    t.wire = s.wire ∧ t.leds = s.leds ∧ t.txbuf = s.txbuf ∧ t.trace = s.trace

/-- Derived from R206, R22 and R204: no step but the host's own writes `IE_host`, and during a transmission the host
takes no interrupt whatever `IE_host` is. -/
def Obligations.InterruptBracket : Prop :=
  ∀ s t : State, step s = .next t →
    ((∀ b rest, s.stimuli ≠ .hostIe b :: rest) → t.ieHost = s.ieHost) ∧
    (s.mode.transmitting = true → s.hostMayTakeInterrupt = false) ∧
    (s.mode.transmitting = false → s.hostMayTakeInterrupt = s.ieHost)

/-- Derived from R122 and R52: once started, the serializer depends on neither the host's interrupt state nor the
framebuffer nor the brightness: running with others changes nothing but them. -/
def Obligations.SerializerIgnoresHostAndFramebuffer : Prop :=
  ∀ (k : Nat) (s : State) (ie : Bool) (m : Memory) (v : Byte), s.busy = 0 →
    clockEdges k { s with ieHost := ie, fb := m, bright := v } =
      { clockEdges k s with ieHost := ie, fb := m, bright := v }

/-- Derived from R16, R17, R23 and R100: the pad `PIN` selects carries the line. After every step but a reset from a
constructed state with the invariants, that pad is high exactly inside the high phase of a bit and low otherwise,
and of any other pad nothing is known (U8; a free value, log entry 15). `PANEL_INIT` leaves the pad it names low,
for every pin at the default `PinSupported` of R7 (log entry 12). -/
def Obligations.SelectedPadCarriesTheLine : Prop :=
  (∀ s t : State, s.Inv → s.noReset → s.mode ≠ .unbound → step s = .next t →
    t.pad t.pin = t.dout ∧
    (t.pad t.pin = .h ↔ t.mode = .sending ∧ t.phase = .hi) ∧
    (t.pad t.pin = .l ↔ ¬ (t.mode = .sending ∧ t.phase = .hi)) ∧
    ∀ q, q ≠ t.pin → ∃ k instant, t.pad q = Config.otherPad k instant q) ∧
  (∀ (s : State) (pin : PinId), s.cmdReady = true →
    ∃ t, exec (.panelInit pin) s = .next t ∧ t.pin = pin ∧ t.pad pin = .l)

/-! ### The host's text layer (R191 to R196) -/

/-- R191: the commands of a character are exactly one for each lit glyph pixel whose coordinates fit `i16`, and
none for an unlit one; an unsupported character has no lit pixel and gives none. -/
def Obligations.DrawCharIssuesTheLitPixels : Prop :=
  ∀ (glyph : Glyph) (ch : Char) (row col : Int) (color : Packed),
    (drawChar glyph ch row col color).Nodup ∧
    (∀ i : Instr, i ∈ drawChar glyph ch row col color ↔
      ∃ gr gc : Nat, gr < 6 ∧ gc < 4 ∧ glyph ch gr gc = true ∧
        -32768 ≤ col + gc ∧ col + gc ≤ 32767 ∧ -32768 ≤ row + gr ∧ row + gr ≤ 32767 ∧
        i = .drawPixelPacked (col + gc) (row + gr) color) ∧
    (Config.fontSupports ch = false → drawChar hostGlyph ch row col color = [])

/-- Derived from R195: after one scroll step the framebuffer holds exactly the lit, in-panel pixels of the string in the
given colour and zero elsewhere, one frame has been sent, and the brightness is unchanged. Which byte of a triple
is which bits of the colour follows R45 and decision D10, the presumed layout of log entry 11. -/
def Obligations.ScrollStepDrawsTheString : Prop :=
  ∀ (glyph : Glyph) (text : List Char) (row x : Int) (color : Packed) (s : State), s.idleReady →
    ∃ t, issueAll (scrollStep glyph text row x color).1 s = .next t ∧ t.bright = s.bright ∧
      t.wire = s.wire ++ transmitSymbols (t.memReadTx 0 768) ∧
      ∀ px py : Nat, px < 32 → py < 8 →
        ((∃ (k : Nat) (ch : Char) (gr gc : Nat), text[k]? = some ch ∧ gr < 6 ∧ gc < 4 ∧
            glyph ch gr gc = true ∧ (px : Int) = x + 5 * k + gc ∧ (py : Int) = row + gr) →
          t.storedTriple (map px py) = [color.extractLsb' 8 8, color.extractLsb' 16 8, color.extractLsb' 0 8]) ∧
        ((¬ ∃ (k : Nat) (ch : Char) (gr gc : Nat), text[k]? = some ch ∧ gr < 6 ∧ gc < 4 ∧
            glyph ch gr gc = true ∧ (px : Int) = x + 5 * k + gc ∧ (py : Int) = row + gr) →
          t.storedTriple (map px py) = [0#8, 0#8, 0#8])

/-- R196: from 32 the returned values count down to `−w` and come back to 32 after exactly
`w + 33` calls; no call returns a value below `−w`. -/
def Obligations.ScrollCycle : Prop :=
  ∀ text : List Char,
    (∀ k : Nat, k ≤ 5 * text.length + 32 → (scrollNext text)^[k] 32 = 32 - (k : Int)) ∧
    (scrollNext text)^[5 * text.length + 33] 32 = 32 ∧
    (∀ x : Int, -(5 * (text.length : Int)) ≤ x → x ≤ 32 →
      -(5 * (text.length : Int)) ≤ scrollNext text x ∧ scrollNext text x ≤ 32)
end

