-- ==== Sys2Proof/Laws/Memory.lean ====
section
/-! SUPPORT. The laws of the block's memories: what a read gives after a write, that every operation keeps the
canonical form, and that equal contents are equal data. -/

namespace Sys2Proof.Machine

/-! ### Read after write -/

@[simp] theorem Memory.read_nil (a : Nat) : Memory.read [] a = none := rfl

theorem Memory.read_put (m : Memory) (a b : Nat) (v : Byte) :
    (m.put a v).read b = if b = a then some v else m.read b := by
  induction m with
  | nil => simp [Memory.put, Memory.read]
  | cons c rest ih =>
    obtain ⟨c, w⟩ := c
    simp only [Memory.put]
    split
    · simp only [Memory.read]
    · split
      · next h => subst h; simp only [Memory.read]; split <;> rfl
      · simp only [Memory.read, ih]
        split
        · next hne hbc => subst hbc; simp [Ne.symm hne]
        · rfl

@[simp] theorem Memory.read_write (m : Memory) (a : Fin Config.fbLen) (b : Nat) (v : Byte) :
    (m.write a v).read b = if b = a.val then some v else m.read b := Memory.read_put m a.val b v

/-- What `MemWrite` does to a read: the written bytes, and every other byte as before. -/
theorem Memory.read_memWrite (m : Memory) (a : Nat) (vs : List Byte) (h : a + vs.length ≤ Config.fbLen)
    (b : Nat) :
    (m.memWrite a vs h).read b = if a ≤ b ∧ b < a + vs.length then vs[b - a]? else m.read b := by
  induction vs generalizing m a with
  | nil => simp only [Memory.memWrite, List.length_nil]; rw [if_neg]; omega
  | cons v vs ih =>
    simp only [Memory.memWrite, ih, Memory.read_write, List.length_cons]
    by_cases hb : b = a
    · subst hb
      rw [if_neg (by omega), if_pos rfl, if_pos (by omega)]
      simp
    · rw [if_neg hb]
      by_cases hr : a + 1 ≤ b ∧ b < a + 1 + vs.length
      · rw [if_pos hr, if_pos (by omega), show b - a = (b - (a + 1)) + 1 by omega]
        simp
      · rw [if_neg hr, if_neg (by omega)]

theorem Memory.read_map_range (f : Nat → Byte) (n k b : Nat) :
    Memory.read ((List.range' k n).map fun a => (a, f a)) b = if k ≤ b ∧ b < k + n then some (f b) else none := by
  induction n generalizing k with
  | zero => simp
  | succ n ih =>
    simp only [List.range'_succ, List.map_cons, Memory.read, ih]
    by_cases hb : b = k
    · subst hb; simp
    · rw [if_neg hb]
      by_cases hr : k + 1 ≤ b ∧ b < k + 1 + n
      · rw [if_pos hr, if_pos (by omega)]
      · rw [if_neg hr, if_neg (by omega)]

/-- A whole-buffer write: every offset of the buffer reads as given. -/
@[simp] theorem Memory.read_ofFn (f : Nat → Byte) (b : Nat) :
    (Memory.ofFn f).read b = if b < Config.fbLen then some (f b) else none := by
  unfold Memory.ofFn
  rw [List.range_eq_range', Memory.read_map_range]
  simp

@[simp] theorem Memory.read_fill (v : Byte) (b : Nat) :
    (Memory.fill v).read b = if b < Config.fbLen then some v else none := Memory.read_ofFn _ b

/-- `StoreTriple` (R147): three bytes in the order green, red, blue; "No other byte of `FB` changes". -/
theorem read_storeTriple (m : Memory) (p : Fin Config.numLeds) (r g b : Byte) (a : Nat) :
    (storeTriple m p r g b).read a =
      if a = 3 * p.val then some g else if a = 3 * p.val + 1 then some r
      else if a = 3 * p.val + 2 then some b else m.read a := by
  unfold storeTriple
  rw [Memory.read_memWrite]
  simp only [List.length_cons, List.length_nil]
  by_cases h0 : a = 3 * p.val
  · subst h0; rw [if_pos (by omega)]; simp
  · rw [if_neg h0]
    by_cases h1 : a = 3 * p.val + 1
    · subst h1; rw [if_pos (by omega)]; simp
    · rw [if_neg h1]
      by_cases h2 : a = 3 * p.val + 2
      · subst h2; rw [if_pos (by omega)]; simp
      · rw [if_neg h2, if_neg (by omega)]

theorem plot_of_inBounds {x y : Int} (h : inBounds x y = true) (m : Memory) (r g b : Byte) (a : Nat) :
    (plot m x y r g b).read a =
      if a = 3 * map x.toNat y.toNat then some g else if a = 3 * map x.toNat y.toNat + 1 then some r
      else if a = 3 * map x.toNat y.toNat + 2 then some b else m.read a := by
  unfold plot
  rw [dif_pos h, read_storeTriple]

@[simp] theorem plot_of_not_inBounds {x y : Int} (h : inBounds x y = false) (m : Memory) (r g b : Byte) :
    plot m x y r g b = m := by
  unfold plot
  rw [dif_neg (by simp [h])]

/-! ### The canonical form -/

theorem Memory.wfFrom_mono {lo lo' : Nat} (h : lo' ≤ lo) : ∀ {m : Memory}, m.wfFrom lo = true → m.wfFrom lo' = true
  | [], _ => rfl
  | (a, _) :: rest, hm => by
    simp only [Memory.wfFrom, Bool.and_eq_true, decide_eq_true_eq] at hm ⊢
    exact ⟨⟨by omega, hm.1.2⟩, hm.2⟩

theorem Memory.wfFrom_put {a : Nat} (ha : a < Config.fbLen) (v : Byte) :
    ∀ {m : Memory} {lo : Nat}, lo ≤ a → m.wfFrom lo = true → (m.put a v).wfFrom lo = true
  | [], lo, hlo, _ => by simp [Memory.put, Memory.wfFrom, hlo]; simpa using ha
  | (b, w) :: rest, lo, hlo, hm => by
    simp only [Memory.wfFrom, Bool.and_eq_true, decide_eq_true_eq] at hm
    simp only [Memory.put]
    split
    · simp only [Memory.wfFrom, Bool.and_eq_true, decide_eq_true_eq]
      exact ⟨⟨hlo, ha⟩, ⟨by omega, hm.1.2⟩, hm.2⟩
    · split
      · next h =>
        subst h
        simp only [Memory.wfFrom, Bool.and_eq_true, decide_eq_true_eq]
        exact ⟨⟨hlo, ha⟩, hm.2⟩
      · simp only [Memory.wfFrom, Bool.and_eq_true, decide_eq_true_eq]
        exact ⟨hm.1, Memory.wfFrom_put ha v (by omega) hm.2⟩

theorem Memory.write_keeps_wf {m : Memory} (h : m.wf = true) (a : Fin Config.fbLen) (v : Byte) :
    (m.write a v).wf = true := Memory.wfFrom_put a.isLt v (Nat.zero_le _) h

theorem Memory.memWrite_keeps_wf {m : Memory} (h : m.wf = true) (a : Nat) (vs : List Byte)
    (hl : a + vs.length ≤ Config.fbLen) : (m.memWrite a vs hl).wf = true := by
  induction vs generalizing m a with
  | nil => exact h
  | cons v vs ih => exact ih (Memory.write_keeps_wf h _ v) _ _

theorem storeTriple_keeps_wf {m : Memory} (h : m.wf = true) (p : Fin Config.numLeds) (r g b : Byte) :
    (storeTriple m p r g b).wf = true := Memory.memWrite_keeps_wf h _ _ _

theorem plot_keeps_wf {m : Memory} (h : m.wf = true) (x y : Int) (r g b : Byte) :
    (plot m x y r g b).wf = true := by
  unfold plot
  split
  · exact storeTriple_keeps_wf h _ r g b
  · exact h

theorem Memory.wfFrom_map_range (f : Nat → Byte) (n k : Nat) (h : k + n ≤ Config.fbLen) :
    Memory.wfFrom k ((List.range' k n).map fun a => (a, f a)) = true := by
  induction n generalizing k with
  | zero => rfl
  | succ n ih =>
    simp only [List.range'_succ, List.map_cons, Memory.wfFrom, Bool.and_eq_true, decide_eq_true_eq]
    exact ⟨⟨Nat.le_refl _, by omega⟩, ih (k + 1) (by omega)⟩

@[simp] theorem Memory.ofFn_wf (f : Nat → Byte) : (Memory.ofFn f).wf = true := by
  unfold Memory.ofFn Memory.wf
  rw [List.range_eq_range']
  exact Memory.wfFrom_map_range f _ 0 (by simp)

@[simp] theorem Memory.fill_wf (v : Byte) : (Memory.fill v).wf = true := Memory.ofFn_wf _

theorem reset_fb_wf : State.reset.fb.wf = true := rfl

theorem reset_txbuf_wf : State.reset.txbuf.wf = true := rfl

/-! ### Full buffers -/

theorem Memory.full_iff (m : Memory) : m.full = true ↔ ∀ a < Config.fbLen, (m.read a).isSome = true := by
  unfold Memory.full
  rw [List.all_eq_true]
  simp only [List.mem_range]

@[simp] theorem Memory.ofFn_full (f : Nat → Byte) : (Memory.ofFn f).full = true := by
  rw [Memory.full_iff]
  intro a ha
  simp only [Memory.read_ofFn, if_pos ha, Option.isSome_some]

@[simp] theorem Memory.fill_full (v : Byte) : (Memory.fill v).full = true := by
  unfold Memory.fill
  exact Memory.ofFn_full _

theorem Memory.memWrite_keeps_full {m : Memory} (h : m.full = true) (a : Nat) (vs : List Byte)
    (hl : a + vs.length ≤ Config.fbLen) : (m.memWrite a vs hl).full = true := by
  rw [Memory.full_iff] at h ⊢
  intro b hb
  rw [Memory.read_memWrite]
  split
  · next hr => rw [List.getElem?_eq_getElem (by omega), Option.isSome_some]
  · exact h b hb

theorem plot_keeps_full {m : Memory} (h : m.full = true) (x y : Int) (r g b : Byte) :
    (plot m x y r g b).full = true := by
  unfold plot
  split
  · exact Memory.memWrite_keeps_full h _ _ _
  · exact h

/-! ### Equal contents are equal data -/

theorem Memory.read_below_wfFrom {lo a : Nat} (ha : a < lo) :
    ∀ {m : Memory}, m.wfFrom lo = true → m.read a = none
  | [], _ => rfl
  | (b, w) :: rest, hm => by
    simp only [Memory.wfFrom, Bool.and_eq_true, decide_eq_true_eq] at hm
    simp only [Memory.read]
    rw [if_neg (by omega)]
    exact Memory.read_below_wfFrom (by omega) hm.2

theorem Memory.ext_from : ∀ {m m' : Memory} {lo : Nat}, m.wfFrom lo = true → m'.wfFrom lo = true →
    (∀ a, m.read a = m'.read a) → m = m'
  | [], [], _, _, _, _ => rfl
  | [], (b, w) :: rest, _, _, _, h => by simpa [Memory.read] using h b
  | (b, w) :: rest, [], _, _, _, h => by simpa [Memory.read] using h b
  | (b, w) :: rest, (c, v) :: rest', lo, hm, hm', h => by
    simp only [Memory.wfFrom, Bool.and_eq_true, decide_eq_true_eq] at hm hm'
    have hbc : b = c := by
      rcases Nat.lt_trichotomy b c with hlt | heq | hgt
      · have h1 := h b
        simp only [Memory.read, if_true, if_neg (Nat.ne_of_lt hlt)] at h1
        rw [Memory.read_below_wfFrom (by omega) hm'.2] at h1
        exact absurd h1 (by simp)
      · exact heq
      · have h1 := h c
        simp only [Memory.read, if_true, if_neg (Nat.ne_of_lt hgt)] at h1
        rw [Memory.read_below_wfFrom (by omega) hm.2] at h1
        exact absurd h1 (by simp)
    subst hbc
    have hw : w = v := by simpa [Memory.read] using h b
    subst hw
    have hrest : rest = rest' := Memory.ext_from hm.2 hm'.2 fun a => by
      by_cases ha : a = b
      · subst ha
        rw [Memory.read_below_wfFrom (by omega) hm.2, Memory.read_below_wfFrom (by omega) hm'.2]
      · have h1 := h a
        simpa only [Memory.read, if_neg ha] using h1
    rw [hrest]

/-- Two memories in canonical form that read alike are the same memory. -/
theorem Memory.ext {m m' : Memory} (h : m.wf = true) (h' : m'.wf = true)
    (hr : ∀ a, m.read a = m'.read a) : m = m' := Memory.ext_from h h' hr

end Sys2Proof.Machine
end

