-- ==== Sys2Proof/Laws/State.lean ====
section
/-! SUPPORT. One lemma for each field of `State` and each named update: what the update leaves alone, and what it
writes. Proofs cite these and do not unfold an update. -/

namespace Sys2Proof.Machine

/-! ### The modes -/

@[simp] theorem Mode.transmitting_unbound : Mode.unbound.transmitting = false := rfl
@[simp] theorem Mode.transmitting_idle : Mode.idle.transmitting = false := rfl
@[simp] theorem Mode.transmitting_sending : Mode.sending.transmitting = true := rfl
@[simp] theorem Mode.transmitting_latch : Mode.latch.transmitting = true := rfl

/-! ### The pads (R16, R23) -/

@[simp] theorem State.pad_pin (s : State) : s.pad s.pin = s.dout := if_pos rfl

theorem State.pad_of_ne {s : State} {q : PinId} (h : q ≠ s.pin) :
    s.pad q = Config.otherPad s.draws (s.trace.length + s.wire.length) q := if_neg h

/-! ### `copyScaled`: only `TXBUF` -/

@[simp] theorem copyScaled_mode (s : State) : (copyScaled s).mode = s.mode := rfl
@[simp] theorem copyScaled_bright (s : State) : (copyScaled s).bright = s.bright := rfl
@[simp] theorem copyScaled_fb (s : State) : (copyScaled s).fb = s.fb := rfl
@[simp] theorem copyScaled_pin (s : State) : (copyScaled s).pin = s.pin := rfl
@[simp] theorem copyScaled_dout (s : State) : (copyScaled s).dout = s.dout := rfl
@[simp] theorem copyScaled_txlen (s : State) : (copyScaled s).txlen = s.txlen := rfl
@[simp] theorem copyScaled_txi (s : State) : (copyScaled s).txi = s.txi := rfl
@[simp] theorem copyScaled_biti (s : State) : (copyScaled s).biti = s.biti := rfl
@[simp] theorem copyScaled_phase (s : State) : (copyScaled s).phase = s.phase := rfl
@[simp] theorem copyScaled_tmr (s : State) : (copyScaled s).tmr = s.tmr := rfl
@[simp] theorem copyScaled_busy (s : State) : (copyScaled s).busy = s.busy := rfl
@[simp] theorem copyScaled_showPending (s : State) : (copyScaled s).showPending = s.showPending := rfl
@[simp] theorem copyScaled_ieHost (s : State) : (copyScaled s).ieHost = s.ieHost := rfl
@[simp] theorem copyScaled_wire (s : State) : (copyScaled s).wire = s.wire := rfl
@[simp] theorem copyScaled_trace (s : State) : (copyScaled s).trace = s.trace := rfl
@[simp] theorem copyScaled_leds (s : State) : (copyScaled s).leds = s.leds := rfl
@[simp] theorem copyScaled_stimuli (s : State) : (copyScaled s).stimuli = s.stimuli := rfl
@[simp] theorem copyScaled_lowCyc (s : State) : (copyScaled s).lowCyc = s.lowCyc := rfl
@[simp] theorem copyScaled_armed (s : State) : (copyScaled s).armed = s.armed := rfl
@[simp] theorem copyScaled_epoch (s : State) : (copyScaled s).epoch = s.epoch := rfl
@[simp] theorem copyScaled_draws (s : State) : (copyScaled s).draws = s.draws := rfl
@[simp] theorem copyScaled_txbuf (s : State) :
    (copyScaled s).txbuf = Memory.ofFn fun a => scale (s.fbByte a) s.bright := rfl

/-! ### `construct`: `FB`, `BRIGHT`, `MODE` -/

@[simp] theorem construct_txbuf (s : State) : (construct s).txbuf = s.txbuf := rfl
@[simp] theorem construct_pin (s : State) : (construct s).pin = s.pin := rfl
@[simp] theorem construct_dout (s : State) : (construct s).dout = s.dout := rfl
@[simp] theorem construct_txlen (s : State) : (construct s).txlen = s.txlen := rfl
@[simp] theorem construct_txi (s : State) : (construct s).txi = s.txi := rfl
@[simp] theorem construct_biti (s : State) : (construct s).biti = s.biti := rfl
@[simp] theorem construct_phase (s : State) : (construct s).phase = s.phase := rfl
@[simp] theorem construct_tmr (s : State) : (construct s).tmr = s.tmr := rfl
@[simp] theorem construct_busy (s : State) : (construct s).busy = s.busy := rfl
@[simp] theorem construct_showPending (s : State) : (construct s).showPending = s.showPending := rfl
@[simp] theorem construct_ieHost (s : State) : (construct s).ieHost = s.ieHost := rfl
@[simp] theorem construct_wire (s : State) : (construct s).wire = s.wire := rfl
@[simp] theorem construct_trace (s : State) : (construct s).trace = s.trace := rfl
@[simp] theorem construct_leds (s : State) : (construct s).leds = s.leds := rfl
@[simp] theorem construct_stimuli (s : State) : (construct s).stimuli = s.stimuli := rfl
@[simp] theorem construct_lowCyc (s : State) : (construct s).lowCyc = s.lowCyc := rfl
@[simp] theorem construct_armed (s : State) : (construct s).armed = s.armed := rfl
@[simp] theorem construct_epoch (s : State) : (construct s).epoch = s.epoch := rfl
@[simp] theorem construct_draws (s : State) : (construct s).draws = s.draws := rfl
@[simp] theorem construct_fb (s : State) : (construct s).fb = Memory.fill 0#8 := rfl
@[simp] theorem construct_bright (s : State) : (construct s).bright = 255#8 := rfl
@[simp] theorem construct_mode (s : State) : (construct s).mode = .idle := rfl

/-! ### `driveHigh`: `PHASE`, `DOUT`, `TMR` -/

@[simp] theorem driveHigh_mode (s : State) : (driveHigh s).mode = s.mode := rfl
@[simp] theorem driveHigh_bright (s : State) : (driveHigh s).bright = s.bright := rfl
@[simp] theorem driveHigh_fb (s : State) : (driveHigh s).fb = s.fb := rfl
@[simp] theorem driveHigh_txbuf (s : State) : (driveHigh s).txbuf = s.txbuf := rfl
@[simp] theorem driveHigh_pin (s : State) : (driveHigh s).pin = s.pin := rfl
@[simp] theorem driveHigh_txlen (s : State) : (driveHigh s).txlen = s.txlen := rfl
@[simp] theorem driveHigh_txi (s : State) : (driveHigh s).txi = s.txi := rfl
@[simp] theorem driveHigh_biti (s : State) : (driveHigh s).biti = s.biti := rfl
@[simp] theorem driveHigh_busy (s : State) : (driveHigh s).busy = s.busy := rfl
@[simp] theorem driveHigh_showPending (s : State) : (driveHigh s).showPending = s.showPending := rfl
@[simp] theorem driveHigh_ieHost (s : State) : (driveHigh s).ieHost = s.ieHost := rfl
@[simp] theorem driveHigh_wire (s : State) : (driveHigh s).wire = s.wire := rfl
@[simp] theorem driveHigh_trace (s : State) : (driveHigh s).trace = s.trace := rfl
@[simp] theorem driveHigh_leds (s : State) : (driveHigh s).leds = s.leds := rfl
@[simp] theorem driveHigh_stimuli (s : State) : (driveHigh s).stimuli = s.stimuli := rfl
@[simp] theorem driveHigh_lowCyc (s : State) : (driveHigh s).lowCyc = s.lowCyc := rfl
@[simp] theorem driveHigh_armed (s : State) : (driveHigh s).armed = s.armed := rfl
@[simp] theorem driveHigh_epoch (s : State) : (driveHigh s).epoch = s.epoch := rfl
@[simp] theorem driveHigh_draws (s : State) : (driveHigh s).draws = s.draws := rfl
@[simp] theorem driveHigh_phase (s : State) : (driveHigh s).phase = .hi := rfl
@[simp] theorem driveHigh_dout (s : State) : (driveHigh s).dout = .h := rfl
@[simp] theorem driveHigh_tmr (s : State) : (driveHigh s).tmr = timerFor (cycHigh s.curBit) := rfl
@[simp] theorem driveHigh_curBit (s : State) : (driveHigh s).curBit = s.curBit := rfl

/-! ### `highToLow`: `PHASE`, `DOUT`, `TMR` -/

@[simp] theorem highToLow_mode (s : State) : (highToLow s).mode = s.mode := rfl
@[simp] theorem highToLow_bright (s : State) : (highToLow s).bright = s.bright := rfl
@[simp] theorem highToLow_fb (s : State) : (highToLow s).fb = s.fb := rfl
@[simp] theorem highToLow_txbuf (s : State) : (highToLow s).txbuf = s.txbuf := rfl
@[simp] theorem highToLow_pin (s : State) : (highToLow s).pin = s.pin := rfl
@[simp] theorem highToLow_txlen (s : State) : (highToLow s).txlen = s.txlen := rfl
@[simp] theorem highToLow_txi (s : State) : (highToLow s).txi = s.txi := rfl
@[simp] theorem highToLow_biti (s : State) : (highToLow s).biti = s.biti := rfl
@[simp] theorem highToLow_busy (s : State) : (highToLow s).busy = s.busy := rfl
@[simp] theorem highToLow_showPending (s : State) : (highToLow s).showPending = s.showPending := rfl
@[simp] theorem highToLow_ieHost (s : State) : (highToLow s).ieHost = s.ieHost := rfl
@[simp] theorem highToLow_wire (s : State) : (highToLow s).wire = s.wire := rfl
@[simp] theorem highToLow_trace (s : State) : (highToLow s).trace = s.trace := rfl
@[simp] theorem highToLow_leds (s : State) : (highToLow s).leds = s.leds := rfl
@[simp] theorem highToLow_stimuli (s : State) : (highToLow s).stimuli = s.stimuli := rfl
@[simp] theorem highToLow_lowCyc (s : State) : (highToLow s).lowCyc = s.lowCyc := rfl
@[simp] theorem highToLow_armed (s : State) : (highToLow s).armed = s.armed := rfl
@[simp] theorem highToLow_epoch (s : State) : (highToLow s).epoch = s.epoch := rfl
@[simp] theorem highToLow_draws (s : State) : (highToLow s).draws = s.draws := rfl
@[simp] theorem highToLow_phase (s : State) : (highToLow s).phase = .lo := rfl
@[simp] theorem highToLow_dout (s : State) : (highToLow s).dout = .l := rfl
@[simp] theorem highToLow_tmr (s : State) : (highToLow s).tmr = timerFor (cycLow s.curBit) := rfl
@[simp] theorem highToLow_curBit (s : State) : (highToLow s).curBit = s.curBit := rfl

/-! ### `advanceCursor`: `BITI`, `TXI` -/

@[simp] theorem advanceCursor_mode (s : State) : (advanceCursor s).mode = s.mode := by
  unfold advanceCursor; split <;> rfl
@[simp] theorem advanceCursor_bright (s : State) : (advanceCursor s).bright = s.bright := by
  unfold advanceCursor; split <;> rfl
@[simp] theorem advanceCursor_fb (s : State) : (advanceCursor s).fb = s.fb := by
  unfold advanceCursor; split <;> rfl
@[simp] theorem advanceCursor_txbuf (s : State) : (advanceCursor s).txbuf = s.txbuf := by
  unfold advanceCursor; split <;> rfl
@[simp] theorem advanceCursor_pin (s : State) : (advanceCursor s).pin = s.pin := by
  unfold advanceCursor; split <;> rfl
@[simp] theorem advanceCursor_dout (s : State) : (advanceCursor s).dout = s.dout := by
  unfold advanceCursor; split <;> rfl
@[simp] theorem advanceCursor_txlen (s : State) : (advanceCursor s).txlen = s.txlen := by
  unfold advanceCursor; split <;> rfl
@[simp] theorem advanceCursor_phase (s : State) : (advanceCursor s).phase = s.phase := by
  unfold advanceCursor; split <;> rfl
@[simp] theorem advanceCursor_tmr (s : State) : (advanceCursor s).tmr = s.tmr := by
  unfold advanceCursor; split <;> rfl
@[simp] theorem advanceCursor_busy (s : State) : (advanceCursor s).busy = s.busy := by
  unfold advanceCursor; split <;> rfl
@[simp] theorem advanceCursor_showPending (s : State) : (advanceCursor s).showPending = s.showPending := by
  unfold advanceCursor; split <;> rfl
@[simp] theorem advanceCursor_ieHost (s : State) : (advanceCursor s).ieHost = s.ieHost := by
  unfold advanceCursor; split <;> rfl
@[simp] theorem advanceCursor_wire (s : State) : (advanceCursor s).wire = s.wire := by
  unfold advanceCursor; split <;> rfl
@[simp] theorem advanceCursor_trace (s : State) : (advanceCursor s).trace = s.trace := by
  unfold advanceCursor; split <;> rfl
@[simp] theorem advanceCursor_leds (s : State) : (advanceCursor s).leds = s.leds := by
  unfold advanceCursor; split <;> rfl
@[simp] theorem advanceCursor_stimuli (s : State) : (advanceCursor s).stimuli = s.stimuli := by
  unfold advanceCursor; split <;> rfl
@[simp] theorem advanceCursor_lowCyc (s : State) : (advanceCursor s).lowCyc = s.lowCyc := by
  unfold advanceCursor; split <;> rfl
@[simp] theorem advanceCursor_armed (s : State) : (advanceCursor s).armed = s.armed := by
  unfold advanceCursor; split <;> rfl
@[simp] theorem advanceCursor_epoch (s : State) : (advanceCursor s).epoch = s.epoch := by
  unfold advanceCursor; split <;> rfl
@[simp] theorem advanceCursor_draws (s : State) : (advanceCursor s).draws = s.draws := by
  unfold advanceCursor; split <;> rfl

/-! ### `beginLatch`: `MODE`, `TMR` -/

@[simp] theorem beginLatch_bright (s : State) : (beginLatch s).bright = s.bright := rfl
@[simp] theorem beginLatch_fb (s : State) : (beginLatch s).fb = s.fb := rfl
@[simp] theorem beginLatch_txbuf (s : State) : (beginLatch s).txbuf = s.txbuf := rfl
@[simp] theorem beginLatch_pin (s : State) : (beginLatch s).pin = s.pin := rfl
@[simp] theorem beginLatch_dout (s : State) : (beginLatch s).dout = s.dout := rfl
@[simp] theorem beginLatch_txlen (s : State) : (beginLatch s).txlen = s.txlen := rfl
@[simp] theorem beginLatch_txi (s : State) : (beginLatch s).txi = s.txi := rfl
@[simp] theorem beginLatch_biti (s : State) : (beginLatch s).biti = s.biti := rfl
@[simp] theorem beginLatch_phase (s : State) : (beginLatch s).phase = s.phase := rfl
@[simp] theorem beginLatch_busy (s : State) : (beginLatch s).busy = s.busy := rfl
@[simp] theorem beginLatch_showPending (s : State) : (beginLatch s).showPending = s.showPending := rfl
@[simp] theorem beginLatch_ieHost (s : State) : (beginLatch s).ieHost = s.ieHost := rfl
@[simp] theorem beginLatch_wire (s : State) : (beginLatch s).wire = s.wire := rfl
@[simp] theorem beginLatch_trace (s : State) : (beginLatch s).trace = s.trace := rfl
@[simp] theorem beginLatch_leds (s : State) : (beginLatch s).leds = s.leds := rfl
@[simp] theorem beginLatch_stimuli (s : State) : (beginLatch s).stimuli = s.stimuli := rfl
@[simp] theorem beginLatch_lowCyc (s : State) : (beginLatch s).lowCyc = s.lowCyc := rfl
@[simp] theorem beginLatch_armed (s : State) : (beginLatch s).armed = s.armed := rfl
@[simp] theorem beginLatch_epoch (s : State) : (beginLatch s).epoch = s.epoch := rfl
@[simp] theorem beginLatch_draws (s : State) : (beginLatch s).draws = s.draws := rfl
@[simp] theorem beginLatch_mode (s : State) : (beginLatch s).mode = .latch := rfl
@[simp] theorem beginLatch_tmr (s : State) : (beginLatch s).tmr = timerFor Config.cycReset := rfl

/-! ### `receiveFrame`: `LEDS` and the draw -/

@[simp] theorem receiveFrame_mode (s : State) : (receiveFrame s).mode = s.mode := by
  unfold receiveFrame; split <;> rfl
@[simp] theorem receiveFrame_bright (s : State) : (receiveFrame s).bright = s.bright := by
  unfold receiveFrame; split <;> rfl
@[simp] theorem receiveFrame_fb (s : State) : (receiveFrame s).fb = s.fb := by
  unfold receiveFrame; split <;> rfl
@[simp] theorem receiveFrame_txbuf (s : State) : (receiveFrame s).txbuf = s.txbuf := by
  unfold receiveFrame; split <;> rfl
@[simp] theorem receiveFrame_pin (s : State) : (receiveFrame s).pin = s.pin := by
  unfold receiveFrame; split <;> rfl
@[simp] theorem receiveFrame_dout (s : State) : (receiveFrame s).dout = s.dout := by
  unfold receiveFrame; split <;> rfl
@[simp] theorem receiveFrame_txlen (s : State) : (receiveFrame s).txlen = s.txlen := by
  unfold receiveFrame; split <;> rfl
@[simp] theorem receiveFrame_txi (s : State) : (receiveFrame s).txi = s.txi := by
  unfold receiveFrame; split <;> rfl
@[simp] theorem receiveFrame_biti (s : State) : (receiveFrame s).biti = s.biti := by
  unfold receiveFrame; split <;> rfl
@[simp] theorem receiveFrame_phase (s : State) : (receiveFrame s).phase = s.phase := by
  unfold receiveFrame; split <;> rfl
@[simp] theorem receiveFrame_tmr (s : State) : (receiveFrame s).tmr = s.tmr := by
  unfold receiveFrame; split <;> rfl
@[simp] theorem receiveFrame_busy (s : State) : (receiveFrame s).busy = s.busy := by
  unfold receiveFrame; split <;> rfl
@[simp] theorem receiveFrame_showPending (s : State) : (receiveFrame s).showPending = s.showPending := by
  unfold receiveFrame; split <;> rfl
@[simp] theorem receiveFrame_ieHost (s : State) : (receiveFrame s).ieHost = s.ieHost := by
  unfold receiveFrame; split <;> rfl
@[simp] theorem receiveFrame_wire (s : State) : (receiveFrame s).wire = s.wire := by
  unfold receiveFrame; split <;> rfl
@[simp] theorem receiveFrame_trace (s : State) : (receiveFrame s).trace = s.trace := by
  unfold receiveFrame; split <;> rfl
@[simp] theorem receiveFrame_stimuli (s : State) : (receiveFrame s).stimuli = s.stimuli := by
  unfold receiveFrame; split <;> rfl
@[simp] theorem receiveFrame_lowCyc (s : State) : (receiveFrame s).lowCyc = s.lowCyc := by
  unfold receiveFrame; split <;> rfl
@[simp] theorem receiveFrame_armed (s : State) : (receiveFrame s).armed = s.armed := by
  unfold receiveFrame; split <;> rfl
@[simp] theorem receiveFrame_epoch (s : State) : (receiveFrame s).epoch = s.epoch := by
  unfold receiveFrame; split <;> rfl

/-! ### `startTransmit`: the cursor, `MODE`, the line, the premise about the gap -/

@[simp] theorem startTransmit_bright (n : BitVec 16) (s : State) : (startTransmit n s).bright = s.bright := by
  unfold startTransmit; split <;> rfl
@[simp] theorem startTransmit_fb (n : BitVec 16) (s : State) : (startTransmit n s).fb = s.fb := by
  unfold startTransmit; split <;> rfl
@[simp] theorem startTransmit_txbuf (n : BitVec 16) (s : State) : (startTransmit n s).txbuf = s.txbuf := by
  unfold startTransmit; split <;> rfl
@[simp] theorem startTransmit_pin (n : BitVec 16) (s : State) : (startTransmit n s).pin = s.pin := by
  unfold startTransmit; split <;> rfl
@[simp] theorem startTransmit_busy (n : BitVec 16) (s : State) : (startTransmit n s).busy = s.busy := by
  unfold startTransmit; split <;> rfl
@[simp] theorem startTransmit_showPending (n : BitVec 16) (s : State) : (startTransmit n s).showPending = s.showPending := by
  unfold startTransmit; split <;> rfl
@[simp] theorem startTransmit_ieHost (n : BitVec 16) (s : State) : (startTransmit n s).ieHost = s.ieHost := by
  unfold startTransmit; split <;> rfl
@[simp] theorem startTransmit_wire (n : BitVec 16) (s : State) : (startTransmit n s).wire = s.wire := by
  unfold startTransmit; split <;> rfl
@[simp] theorem startTransmit_trace (n : BitVec 16) (s : State) : (startTransmit n s).trace = s.trace := by
  unfold startTransmit; split <;> rfl
@[simp] theorem startTransmit_leds (n : BitVec 16) (s : State) : (startTransmit n s).leds = s.leds := by
  unfold startTransmit; split <;> rfl
@[simp] theorem startTransmit_stimuli (n : BitVec 16) (s : State) : (startTransmit n s).stimuli = s.stimuli := by
  unfold startTransmit; split <;> rfl
@[simp] theorem startTransmit_lowCyc (n : BitVec 16) (s : State) : (startTransmit n s).lowCyc = s.lowCyc := by
  unfold startTransmit; split <;> rfl
@[simp] theorem startTransmit_epoch (n : BitVec 16) (s : State) : (startTransmit n s).epoch = s.epoch := by
  unfold startTransmit; split <;> rfl
@[simp] theorem startTransmit_draws (n : BitVec 16) (s : State) : (startTransmit n s).draws = s.draws := by
  unfold startTransmit; split <;> rfl

/-! ### `sdTransmit`: what a transmission leaves alone (R102) -/

@[simp] theorem sdTransmit_bright (n : BitVec 16) (s : State) : (sdTransmit n s).bright = s.bright := by
  unfold sdTransmit; split <;> simp
@[simp] theorem sdTransmit_fb (n : BitVec 16) (s : State) : (sdTransmit n s).fb = s.fb := by
  unfold sdTransmit; split <;> simp
@[simp] theorem sdTransmit_txbuf (n : BitVec 16) (s : State) : (sdTransmit n s).txbuf = s.txbuf := by
  unfold sdTransmit; split <;> simp
@[simp] theorem sdTransmit_pin (n : BitVec 16) (s : State) : (sdTransmit n s).pin = s.pin := by
  unfold sdTransmit; split <;> simp
@[simp] theorem sdTransmit_busy (n : BitVec 16) (s : State) : (sdTransmit n s).busy = s.busy := by
  unfold sdTransmit; split <;> simp
@[simp] theorem sdTransmit_showPending (n : BitVec 16) (s : State) : (sdTransmit n s).showPending = s.showPending := by
  unfold sdTransmit; split <;> simp
@[simp] theorem sdTransmit_ieHost (n : BitVec 16) (s : State) : (sdTransmit n s).ieHost = s.ieHost := by
  unfold sdTransmit; split <;> simp
@[simp] theorem sdTransmit_trace (n : BitVec 16) (s : State) : (sdTransmit n s).trace = s.trace := by
  unfold sdTransmit; split <;> simp
@[simp] theorem sdTransmit_stimuli (n : BitVec 16) (s : State) : (sdTransmit n s).stimuli = s.stimuli := by
  unfold sdTransmit; split <;> simp
@[simp] theorem sdTransmit_epoch (n : BitVec 16) (s : State) : (sdTransmit n s).epoch = s.epoch := by
  unfold sdTransmit; split <;> simp

/-! ### `nextBit` and `endLatch` -/

@[simp] theorem nextBit_bright (s : State) : (nextBit s).bright = s.bright := by
  unfold nextBit; dsimp only; split <;> simp
@[simp] theorem nextBit_fb (s : State) : (nextBit s).fb = s.fb := by
  unfold nextBit; dsimp only; split <;> simp
@[simp] theorem nextBit_txbuf (s : State) : (nextBit s).txbuf = s.txbuf := by
  unfold nextBit; dsimp only; split <;> simp
@[simp] theorem nextBit_pin (s : State) : (nextBit s).pin = s.pin := by
  unfold nextBit; dsimp only; split <;> simp
@[simp] theorem nextBit_txlen (s : State) : (nextBit s).txlen = s.txlen := by
  unfold nextBit; dsimp only; split <;> simp
@[simp] theorem nextBit_busy (s : State) : (nextBit s).busy = s.busy := by
  unfold nextBit; dsimp only; split <;> simp
@[simp] theorem nextBit_showPending (s : State) : (nextBit s).showPending = s.showPending := by
  unfold nextBit; dsimp only; split <;> simp
@[simp] theorem nextBit_ieHost (s : State) : (nextBit s).ieHost = s.ieHost := by
  unfold nextBit; dsimp only; split <;> simp
@[simp] theorem nextBit_trace (s : State) : (nextBit s).trace = s.trace := by
  unfold nextBit; dsimp only; split <;> simp
@[simp] theorem nextBit_leds (s : State) : (nextBit s).leds = s.leds := by
  unfold nextBit; dsimp only; split <;> simp
@[simp] theorem nextBit_stimuli (s : State) : (nextBit s).stimuli = s.stimuli := by
  unfold nextBit; dsimp only; split <;> simp
@[simp] theorem nextBit_lowCyc (s : State) : (nextBit s).lowCyc = s.lowCyc := by
  unfold nextBit; dsimp only; split <;> simp
@[simp] theorem nextBit_armed (s : State) : (nextBit s).armed = s.armed := by
  unfold nextBit; dsimp only; split <;> simp
@[simp] theorem nextBit_epoch (s : State) : (nextBit s).epoch = s.epoch := by
  unfold nextBit; dsimp only; split <;> simp
@[simp] theorem nextBit_draws (s : State) : (nextBit s).draws = s.draws := by
  unfold nextBit; dsimp only; split <;> simp
@[simp] theorem endLatch_bright (s : State) : (endLatch s).bright = s.bright := by
  unfold endLatch; simp
@[simp] theorem endLatch_fb (s : State) : (endLatch s).fb = s.fb := by
  unfold endLatch; simp
@[simp] theorem endLatch_txbuf (s : State) : (endLatch s).txbuf = s.txbuf := by
  unfold endLatch; simp
@[simp] theorem endLatch_pin (s : State) : (endLatch s).pin = s.pin := by
  unfold endLatch; simp
@[simp] theorem endLatch_dout (s : State) : (endLatch s).dout = s.dout := by
  unfold endLatch; simp
@[simp] theorem endLatch_txlen (s : State) : (endLatch s).txlen = s.txlen := by
  unfold endLatch; simp
@[simp] theorem endLatch_txi (s : State) : (endLatch s).txi = s.txi := by
  unfold endLatch; simp
@[simp] theorem endLatch_biti (s : State) : (endLatch s).biti = s.biti := by
  unfold endLatch; simp
@[simp] theorem endLatch_phase (s : State) : (endLatch s).phase = s.phase := by
  unfold endLatch; simp
@[simp] theorem endLatch_tmr (s : State) : (endLatch s).tmr = s.tmr := by
  unfold endLatch; simp
@[simp] theorem endLatch_busy (s : State) : (endLatch s).busy = s.busy := by
  unfold endLatch; simp
@[simp] theorem endLatch_showPending (s : State) : (endLatch s).showPending = s.showPending := by
  unfold endLatch; simp
@[simp] theorem endLatch_ieHost (s : State) : (endLatch s).ieHost = s.ieHost := by
  unfold endLatch; simp
@[simp] theorem endLatch_trace (s : State) : (endLatch s).trace = s.trace := by
  unfold endLatch; simp
@[simp] theorem endLatch_stimuli (s : State) : (endLatch s).stimuli = s.stimuli := by
  unfold endLatch; simp
@[simp] theorem endLatch_lowCyc (s : State) : (endLatch s).lowCyc = s.lowCyc := by
  unfold endLatch; simp
@[simp] theorem endLatch_armed (s : State) : (endLatch s).armed = s.armed := by
  unfold endLatch; simp
@[simp] theorem endLatch_epoch (s : State) : (endLatch s).epoch = s.epoch := by
  unfold endLatch; simp
@[simp] theorem endLatch_mode (s : State) : (endLatch s).mode = .idle := by
  unfold endLatch; simp
@[simp] theorem endLatch_wire (s : State) : (endLatch s).wire = s.wire ++ [.reset] := by
  unfold endLatch; simp
@[simp] theorem nextBit_wire (s : State) : (nextBit s).wire = s.wire ++ [symOfBit s.curBit] := by
  unfold nextBit; dsimp only; split <;> simp

/-! ### `waitBusy` -/

@[simp] theorem waitBusy_bright (s : State) : (waitBusy s).bright = s.bright := by
  unfold waitBusy; split <;> (try split) <;> simp
@[simp] theorem waitBusy_fb (s : State) : (waitBusy s).fb = s.fb := by
  unfold waitBusy; split <;> (try split) <;> simp
@[simp] theorem waitBusy_txbuf (s : State) : (waitBusy s).txbuf = s.txbuf := by
  unfold waitBusy; split <;> (try split) <;> simp
@[simp] theorem waitBusy_pin (s : State) : (waitBusy s).pin = s.pin := by
  unfold waitBusy; split <;> (try split) <;> simp
@[simp] theorem waitBusy_ieHost (s : State) : (waitBusy s).ieHost = s.ieHost := by
  unfold waitBusy; split <;> (try split) <;> simp
@[simp] theorem waitBusy_wire (s : State) : (waitBusy s).wire = s.wire := by
  unfold waitBusy; split <;> (try split) <;> simp
@[simp] theorem waitBusy_trace (s : State) : (waitBusy s).trace = s.trace := by
  unfold waitBusy; split <;> (try split) <;> simp
@[simp] theorem waitBusy_leds (s : State) : (waitBusy s).leds = s.leds := by
  unfold waitBusy; split <;> (try split) <;> simp
@[simp] theorem waitBusy_stimuli (s : State) : (waitBusy s).stimuli = s.stimuli := by
  unfold waitBusy; split <;> (try split) <;> simp
@[simp] theorem waitBusy_lowCyc (s : State) : (waitBusy s).lowCyc = s.lowCyc := by
  unfold waitBusy; split <;> (try split) <;> simp
@[simp] theorem waitBusy_epoch (s : State) : (waitBusy s).epoch = s.epoch := by
  unfold waitBusy; split <;> (try split) <;> simp
@[simp] theorem waitBusy_draws (s : State) : (waitBusy s).draws = s.draws := by
  unfold waitBusy; split <;> (try split) <;> simp

/-! ### `advance`: what no edge touches (R102, R30 h) -/

@[simp] theorem advance_bright (s : State) : (advance s).bright = s.bright := by
  unfold advance; split <;> (try split) <;> (try split) <;> simp
@[simp] theorem advance_fb (s : State) : (advance s).fb = s.fb := by
  unfold advance; split <;> (try split) <;> (try split) <;> simp
@[simp] theorem advance_txbuf (s : State) : (advance s).txbuf = s.txbuf := by
  unfold advance; split <;> (try split) <;> (try split) <;> simp
@[simp] theorem advance_pin (s : State) : (advance s).pin = s.pin := by
  unfold advance; split <;> (try split) <;> (try split) <;> simp
@[simp] theorem advance_ieHost (s : State) : (advance s).ieHost = s.ieHost := by
  unfold advance; split <;> (try split) <;> (try split) <;> simp
@[simp] theorem advance_trace (s : State) : (advance s).trace = s.trace := by
  unfold advance; split <;> (try split) <;> (try split) <;> simp
@[simp] theorem advance_stimuli (s : State) : (advance s).stimuli = s.stimuli := by
  unfold advance; split <;> (try split) <;> (try split) <;> simp
@[simp] theorem advance_lowCyc (s : State) : (advance s).lowCyc = s.lowCyc := by
  unfold advance; split <;> (try split) <;> (try split) <;> simp
@[simp] theorem advance_epoch (s : State) : (advance s).epoch = s.epoch := by
  unfold advance; split <;> (try split) <;> (try split) <;> simp

/-! ### `observe` and `clockEdge` -/

@[simp] theorem observe_mode (s : State) : (observe s).mode = s.mode := rfl
@[simp] theorem observe_bright (s : State) : (observe s).bright = s.bright := rfl
@[simp] theorem observe_fb (s : State) : (observe s).fb = s.fb := rfl
@[simp] theorem observe_txbuf (s : State) : (observe s).txbuf = s.txbuf := rfl
@[simp] theorem observe_pin (s : State) : (observe s).pin = s.pin := rfl
@[simp] theorem observe_dout (s : State) : (observe s).dout = s.dout := rfl
@[simp] theorem observe_txlen (s : State) : (observe s).txlen = s.txlen := rfl
@[simp] theorem observe_txi (s : State) : (observe s).txi = s.txi := rfl
@[simp] theorem observe_biti (s : State) : (observe s).biti = s.biti := rfl
@[simp] theorem observe_phase (s : State) : (observe s).phase = s.phase := rfl
@[simp] theorem observe_tmr (s : State) : (observe s).tmr = s.tmr := rfl
@[simp] theorem observe_busy (s : State) : (observe s).busy = s.busy := rfl
@[simp] theorem observe_showPending (s : State) : (observe s).showPending = s.showPending := rfl
@[simp] theorem observe_ieHost (s : State) : (observe s).ieHost = s.ieHost := rfl
@[simp] theorem observe_wire (s : State) : (observe s).wire = s.wire := rfl
@[simp] theorem observe_leds (s : State) : (observe s).leds = s.leds := rfl
@[simp] theorem observe_stimuli (s : State) : (observe s).stimuli = s.stimuli := rfl
@[simp] theorem observe_armed (s : State) : (observe s).armed = s.armed := rfl
@[simp] theorem observe_epoch (s : State) : (observe s).epoch = s.epoch := rfl
@[simp] theorem observe_draws (s : State) : (observe s).draws = s.draws := rfl
@[simp] theorem observe_trace (s : State) : (observe s).trace = s.dout :: s.trace := rfl
@[simp] theorem clockEdge_bright (s : State) : (clockEdge s).bright = s.bright := by
  unfold clockEdge; simp
@[simp] theorem clockEdge_fb (s : State) : (clockEdge s).fb = s.fb := by
  unfold clockEdge; simp
@[simp] theorem clockEdge_txbuf (s : State) : (clockEdge s).txbuf = s.txbuf := by
  unfold clockEdge; simp
@[simp] theorem clockEdge_pin (s : State) : (clockEdge s).pin = s.pin := by
  unfold clockEdge; simp
@[simp] theorem clockEdge_ieHost (s : State) : (clockEdge s).ieHost = s.ieHost := by
  unfold clockEdge; simp
@[simp] theorem clockEdge_stimuli (s : State) : (clockEdge s).stimuli = s.stimuli := by
  unfold clockEdge; simp
@[simp] theorem clockEdge_epoch (s : State) : (clockEdge s).epoch = s.epoch := by
  unfold clockEdge; simp

/-! ### Hardware reset (R27) -/

@[simp] theorem hardwareReset_mode (s : State) : (hardwareReset s).mode = .unbound := rfl
@[simp] theorem hardwareReset_dout (s : State) : (hardwareReset s).dout = .z := rfl
@[simp] theorem hardwareReset_fb (s : State) : (hardwareReset s).fb = [] := rfl
@[simp] theorem hardwareReset_txbuf (s : State) : (hardwareReset s).txbuf = [] := rfl
@[simp] theorem hardwareReset_busy (s : State) : (hardwareReset s).busy = 0 := rfl
@[simp] theorem hardwareReset_wire (s : State) : (hardwareReset s).wire = [] := rfl
@[simp] theorem hardwareReset_trace (s : State) : (hardwareReset s).trace = [] := rfl
@[simp] theorem hardwareReset_ieHost (s : State) : (hardwareReset s).ieHost = s.ieHost := rfl
@[simp] theorem hardwareReset_stimuli (s : State) : (hardwareReset s).stimuli = s.stimuli := rfl

end Sys2Proof.Machine
end

