-- ==== Sys2Proof/Laws/Exec.lean ====
section
/-! SUPPORT. What the guards of a command, one step, and the shared operations of the serializer can do, said
once. Proofs cite these and do not unfold `step`, `advance` or a guard. -/

namespace Sys2Proof.Machine

/-! ### The guards (R152) -/

theorem State.cmdReady_iff (s : State) :
    s.cmdReady = true ↔ (s.mode = .unbound ∨ s.mode = .idle) ∧ s.busy = 0 := by
  unfold State.cmdReady
  cases h : s.mode <;> simp [Mode.transmitting]

theorem State.idleReady.cmdReady {s : State} (h : s.idleReady) : s.cmdReady = true :=
  s.cmdReady_iff.mpr ⟨.inr h.1, h.2⟩

theorem State.not_cmdReady_of_transmitting {s : State} (h : s.mode.transmitting = true) :
    s.cmdReady = false := by
  simp [State.cmdReady, h]

theorem whenReady_of_ready {s : State} (h : s.cmdReady = true)
    (f : State → Host.Outcome State Fault Refusal) : whenReady s f = f s := by
  simp [whenReady, h]

theorem whenReady_of_not_ready {s : State} (h : s.cmdReady = false)
    (f : State → Host.Outcome State Fault Refusal) : whenReady s f = .next (clockEdge s) := by
  simp [whenReady, h]

theorem whenConstructed_of_idleReady {s : State} (h : s.idleReady) (mn : String)
    (f : State → Host.Outcome State Fault Refusal) : whenConstructed mn s f = f s := by
  rw [whenConstructed, whenReady_of_ready h.cmdReady, h.1]

theorem whenConstructed_of_unbound {s : State} (hm : s.mode = .unbound) (hb : s.busy = 0) (mn : String)
    (f : State → Host.Outcome State Fault Refusal) :
    whenConstructed mn s f = .refused (.notConstructed mn) := by
  rw [whenConstructed, whenReady_of_ready (s.cmdReady_iff.mpr ⟨.inl hm, hb⟩), hm]

/-- Everything a guarded command can do: its effect in a constructed block that is ready, a refusal before
construction, one clock edge while the block is busy. -/
theorem whenConstructed_cases (mn : String) (s : State) (f : State → Host.Outcome State Fault Refusal) :
    (s.idleReady ∧ whenConstructed mn s f = f s) ∨
    (s.mode = .unbound ∧ s.busy = 0 ∧ whenConstructed mn s f = .refused (.notConstructed mn)) ∨
    (s.cmdReady = false ∧ whenConstructed mn s f = .next (clockEdge s)) := by
  cases hr : s.cmdReady with
  | false => exact .inr (.inr ⟨rfl, whenReady_of_not_ready hr _⟩)
  | true =>
    obtain ⟨hm | hm, hb⟩ := s.cmdReady_iff.mp hr
    · exact .inr (.inl ⟨hm, hb, whenConstructed_of_unbound hm hb mn f⟩)
    · exact .inl ⟨⟨hm, hb⟩, whenConstructed_of_idleReady ⟨hm, hb⟩ mn f⟩

/-- What `PANEL_INIT` does when a command can be accepted, at the default `PinSupported` (R140, R100; log entry
12). -/
theorem execPanelInit_of_ready {s : State} (h : s.cmdReady = true) (pin : PinId) :
    execPanelInit pin s = .next (construct
      { s with pin := pin, dout := .l, lowCyc := if s.dout = .l ∧ s.pin = pin then s.lowCyc else 0 }) := by
  simp [execPanelInit, whenReady_of_ready h, sdInitialize, Config.pinSupported]

/-- The one reason the decoder has to reject a word is its opcode (R79). -/
theorem decodeWord_error {w : CmdWord} {e : Reject} (h : decodeWord w = .error e) :
    e = .reservedOpcode (opcodeField w) := by
  unfold decodeWord at h
  split at h <;> simp at h
  exact h.symm

/-! ### The serializer -/

theorem timerFor_cycHigh (v : Bool) : (timerFor (cycHigh v)).toNat = cycHigh v - 1 := by cases v <;> decide

theorem timerFor_cycLow (v : Bool) : (timerFor (cycLow v)).toNat = cycLow v - 1 := by cases v <;> decide

theorem timerFor_cycReset : (timerFor Config.cycReset).toNat = Config.cycReset - 1 := by decide

theorem cycReset_pos : 0 < Config.cycReset := by decide

theorem cycHigh_pos (v : Bool) : 0 < cycHigh v := by cases v <;> decide

theorem cycLow_pos (v : Bool) : 0 < cycLow v := by cases v <;> decide

/-- Everything the receiver's update can do (R26, U7, U12). -/
theorem receiveFrame_cases (s : State) :
    (s.txlen = BitVec.ofNat 16 Config.fbLen ∧ s.armed = true ∧ receiveFrame s = { s with leds := ledsOfTxbuf s }) ∨
    (¬ (s.txlen = BitVec.ofNat 16 Config.fbLen ∧ s.armed = true) ∧
      receiveFrame s = { s with leds := freeLeds (s.draws + 1), draws := s.draws + 1 }) := by
  unfold receiveFrame
  split
  · next h => exact .inl ⟨h.1, h.2, rfl⟩
  · next h => exact .inr ⟨h, rfl⟩

@[simp] theorem receiveFrame_leds_length (s : State) :
    (receiveFrame s).leds.length = Config.numLeds := by
  obtain ⟨_, _, h⟩ | ⟨_, h⟩ := receiveFrame_cases s <;> rw [h] <;> simp [ledsOfTxbuf, freeLeds]

/-- Everything the cursor can do (R113). -/
theorem advanceCursor_cases (s : State) :
    (s.biti ≠ 0#3 ∧ advanceCursor s = { s with biti := s.biti - 1#3 }) ∨
    (s.biti = 0#3 ∧ advanceCursor s = { s with biti := 7#3, txi := s.txi + 1#16 }) := by
  unfold advanceCursor
  split
  · next h => exact .inl ⟨h, rfl⟩
  · next h => exact .inr ⟨by simpa using h, rfl⟩

/-- Everything one edge of a `BUSY_CYC` wait can do (R153, R110). -/
theorem waitBusy_cases (s : State) :
    (s.busy = 0 ∧ waitBusy s = s) ∨
    (s.busy = 1 ∧ s.showPending = true ∧ waitBusy s =
      startTransmit (BitVec.ofNat 16 Config.fbLen) { s with busy := 0, showPending := false }) ∨
    (s.busy ≠ 0 ∧ ¬ (s.busy = 1 ∧ s.showPending = true) ∧ waitBusy s = { s with busy := s.busy - 1 }) := by
  unfold waitBusy
  split
  · next h => exact .inl ⟨h, rfl⟩
  · next h =>
    split
    · next h1 => exact .inr (.inl ⟨h1.1, h1.2, rfl⟩)
    · next h1 => exact .inr (.inr ⟨h, h1, rfl⟩)

/-- Everything one edge with no command accepted can do (R111 to R115). -/
theorem advance_cases (s : State) :
    (s.mode.transmitting = false ∧ advance s = waitBusy s) ∨
    (s.mode.transmitting = true ∧ s.tmr ≠ 0#16 ∧ advance s = { s with tmr := s.tmr - 1#16 }) ∨
    (s.mode = .sending ∧ s.tmr = 0#16 ∧ s.phase = .hi ∧ advance s = highToLow s) ∨
    (s.mode = .sending ∧ s.tmr = 0#16 ∧ s.phase = .lo ∧ advance s = nextBit s) ∨
    (s.mode = .latch ∧ s.tmr = 0#16 ∧ advance s = endLatch s) := by
  unfold advance
  cases hm : s.mode with
  | unbound => exact .inl ⟨rfl, rfl⟩
  | idle => exact .inl ⟨rfl, rfl⟩
  | sending =>
    by_cases ht : s.tmr = 0#16
    · cases hp : s.phase with
      | hi => exact .inr (.inr (.inl ⟨rfl, ht, rfl, by simp [ht]⟩))
      | lo => exact .inr (.inr (.inr (.inl ⟨rfl, ht, rfl, by simp [ht]⟩)))
    · exact .inr (.inl ⟨rfl, ht, by simp [ht]⟩)
  | latch =>
    by_cases ht : s.tmr = 0#16
    · exact .inr (.inr (.inr (.inr ⟨rfl, ht, by simp [ht]⟩)))
    · exact .inr (.inl ⟨rfl, ht, by simp [ht]⟩)

theorem clockEdges_add (m n : Nat) (s : State) : clockEdges (m + n) s = clockEdges n (clockEdges m s) := by
  induction m generalizing s with
  | zero => simp [clockEdges]
  | succ m ih => rw [Nat.succ_add]; exact ih (clockEdge s)

/-! ### The port and the step -/

theorem State.noReset_of_nil {s : State} (h : s.stimuli = []) : s.noReset := by
  intro valid w rest hs
  rw [h] at hs
  exact absurd hs (by simp)

/-- Everything an accepting edge can answer with a next state: the edge went by while the block was busy, the
command had its whole effect, or `SHOW` was begun. -/
theorem acceptEdge_next {i : Instr} {s t : State} (h : acceptEdge i s = .next t) :
    (s.cmdReady = false ∧ t = clockEdge s) ∨
    (s.cmdReady = true ∧ i ≠ .showFrame ∧ ∃ u, exec i s = .next u ∧ t = observe { u with busy := 0 }) ∨
    (s.idleReady ∧ i = .showFrame ∧ t = observe (startShow 0 s)) := by
  unfold acceptEdge at h
  cases hr : s.cmdReady with
  | false =>
    rw [whenReady_of_not_ready hr] at h
    exact .inl ⟨rfl, by simpa using h.symm⟩
  | true =>
    rw [whenReady_of_ready hr] at h
    have key : ∀ (o : Host.Outcome State Fault Refusal), completeAtEdge 0 o = .next t →
        ∃ u, o = .next u ∧ t = observe { u with busy := 0 } := by
      intro o ho
      cases o with
      | next u => exact ⟨u, rfl, by simpa [completeAtEdge] using ho.symm⟩
      | fault f => simp [completeAtEdge] at ho
      | refused r => simp [completeAtEdge] at ho
    cases i with
    | panelInit pin => exact .inr (.inl ⟨rfl, by simp, key _ h⟩)
    | setBrightness level => exact .inr (.inl ⟨rfl, by simp, key _ h⟩)
    | clear => exact .inr (.inl ⟨rfl, by simp, key _ h⟩)
    | drawPixel x y r g b => exact .inr (.inl ⟨rfl, by simp, key _ h⟩)
    | drawPixelPacked x y color => exact .inr (.inl ⟨rfl, by simp, key _ h⟩)
    | showFrame =>
      obtain ⟨hi, he⟩ | ⟨_, _, he⟩ | ⟨hn, _⟩ := whenConstructed_cases "SHOW" s fun s =>
        Host.Outcome.next (observe (startShow (Config.busyCyc .showCopy) s))
      · simp only [acceptNow, he] at h
        exact .inr (.inr ⟨hi, rfl, by simpa [Config.busyCyc] using h.symm⟩)
      · simp [acceptNow, he] at h
      · simp [hr] at hn

/-- Everything a step can answer with a next state. -/
theorem step_next {s t : State} (h : step s = .next t) :
    (s.stimuli = [] ∧ t = clockEdge s) ∨
    (∃ w rest, s.stimuli = .command w :: rest ∧ s.cmdReady = false ∧ t = clockEdge s) ∨
    (∃ w rest i, s.stimuli = .command w :: rest ∧ s.cmdReady = true ∧ decodeWord w = .ok i ∧
      exec i { s with stimuli := rest } = .next t) ∨
    (∃ valid w rest, s.stimuli = .edge true valid w :: rest ∧ t = hardwareReset { s with stimuli := rest }) ∨
    (∃ valid w rest, s.stimuli = .edge false valid w :: rest ∧ (valid && s.cmdReady) = false ∧
      t = clockEdge { s with stimuli := rest }) ∨
    (∃ w rest i, s.stimuli = .edge false true w :: rest ∧ s.cmdReady = true ∧ decodeWord w = .ok i ∧
      acceptEdge i { s with stimuli := rest } = .next t) ∨
    (∃ b rest, s.stimuli = .hostIe b :: rest ∧ t = { s with ieHost := b, stimuli := rest }) := by
  unfold step at h
  match hs : s.stimuli with
  | [] => simp only [hs] at h; exact .inl ⟨rfl, by simpa using h.symm⟩
  | .command w :: rest =>
    simp only [hs] at h
    cases hr : s.cmdReady with
    | false =>
      simp only [hr] at h
      exact .inr (.inl ⟨w, rest, rfl, rfl, by simpa using h.symm⟩)
    | true =>
      simp only [hr, if_true, runCommand] at h
      cases hd : decodeWord w with
      | ok i => simp only [hd] at h; exact .inr (.inr (.inl ⟨w, rest, i, rfl, rfl, hd, h⟩))
      | error e => cases e; simp [hd] at h
  | .edge true valid w :: rest =>
    simp only [hs, portEdge, if_true] at h
    exact .inr (.inr (.inr (.inl ⟨valid, w, rest, rfl, by simpa using h.symm⟩)))
  | .edge false valid w :: rest =>
    simp only [hs, portEdge, Bool.false_eq_true, if_false] at h
    have hc : State.cmdReady { s with stimuli := rest } = s.cmdReady := rfl
    rw [hc] at h
    cases hr : (valid && s.cmdReady) with
    | false =>
      simp only [hr, Bool.false_eq_true, if_false] at h
      exact .inr (.inr (.inr (.inr (.inl ⟨valid, w, rest, rfl, hr, by simpa using h.symm⟩))))
    | true =>
      simp only [hr, if_true] at h
      obtain ⟨rfl, hready⟩ := Bool.and_eq_true_iff.mp hr
      cases hd : decodeWord w with
      | ok i =>
        simp only [hd] at h
        exact .inr (.inr (.inr (.inr (.inr (.inl ⟨w, rest, i, rfl, hready, hd, h⟩)))))
      | error e => cases e; simp [hd] at h
  | .hostIe b :: rest =>
    simp only [hs] at h
    exact .inr (.inr (.inr (.inr (.inr (.inr ⟨b, rest, rfl, by simpa using h.symm⟩)))))

/-! ### Runs -/

theorem run_succ_of_next {s t : State} (h : step s = .next t) (n : Nat) :
    Host.Core.run Sys2Proof.core (n + 1) s = Host.Core.run Sys2Proof.core n t := by
  have h' : Sys2Proof.core.step s = .next t := h
  simp only [Host.Core.run, h']

theorem run_succ_of_refused {s : State} {r : Refusal} (h : step s = .refused r) (n : Nat) :
    Host.Core.run Sys2Proof.core (n + 1) s = .refused r := by
  have h' : Sys2Proof.core.step s = .refused r := h
  simp only [Host.Core.run, h']

/-! ### The port discipline (R238) -/

/-- The discipline is kept now, and from whatever state the step reaches. -/
theorem State.portDisciplined_iff (s : State) :
    s.portDisciplined ↔ s.offerHeld = true ∧ ∀ t, step s = .next t → t.portDisciplined := by
  constructor
  · exact fun h => ⟨h 0 s rfl, fun t ht n u hu => h (n + 1) u (by rw [run_succ_of_next ht]; exact hu)⟩
  · rintro ⟨h0, h1⟩ n u hu
    cases n with
    | zero => cases hu; exact h0
    | succ n =>
      cases hs : step s with
      | next t => rw [run_succ_of_next hs] at hu; exact h1 t hs n u hu
      | fault f => cases f
      | refused r => rw [run_succ_of_refused hs] at hu; cases hu

/-- A host with nothing more to say keeps the discipline. -/
theorem State.portDisciplined_of_nil {s : State} (h : s.stimuli = []) : s.portDisciplined := by
  intro n
  induction n generalizing s with
  | zero => intro t ht; cases ht; simp [State.offerHeld, h]
  | succ n ih =>
    intro t ht
    have hs : step s = .next (clockEdge s) := by simp [step, h]
    rw [run_succ_of_next hs] at ht
    exact ih (s := clockEdge s) (by simp [h]) t ht

/-- Under the discipline a word offered to a busy block is still offered when the edge has gone by. -/
theorem State.portDisciplined.offer_stays {s : State} (h : s.portDisciplined) {w : CmdWord}
    {rest : List Stimulus} (hs : s.stimuli = .edge false true w :: rest) (hb : s.cmdReady = false) :
    ∃ t, step s = .next t ∧ t.stimuli = rest ∧ keepsOffering w t.stimuli = true ∧ t.portDisciplined := by
  have hstep : step s = .next (clockEdge { s with stimuli := rest }) := by
    have hb' : State.cmdReady { s with stimuli := rest } = false := hb
    simp [step, hs, portEdge, hb']
  have hrest : (clockEdge { s with stimuli := rest }).stimuli = rest := by simp
  refine ⟨_, hstep, hrest, ?_, (s.portDisciplined_iff.mp h).2 _ hstep⟩
  have h0 := (s.portDisciplined_iff.mp h).1
  rw [hrest]
  simpa [State.offerHeld, hs, hb] using h0

end Sys2Proof.Machine
end

