-- ==== Sys2Proof/Laws/PerInstr.lean ====
section
/-! SUPPORT. Statements about every command as syntax, one lemma for each constructor of `Instr`. The family
`OpcodeField`: the word of a command carries the command's opcode in bits 63:60 (R71, R72). -/

namespace Sys2Proof.Laws

/-- The family's statement about one command. -/
def OpcodeField.Statement (i : Instr) : Prop := opcodeField (encode i) = i.opcode

/-- The opcode field of a packed word is the opcode, whatever the other fields hold. -/
theorem opcodeField_packWord (op : BitVec 4) (x y : BitVec 16) (low : Packed) :
    opcodeField (packWord op x y low) = op := by
  ext k hk
  simp only [opcodeField, packWord, BitVec.getElem_extractLsb', BitVec.getLsbD_or, BitVec.getLsbD_shiftLeft,
    BitVec.getLsbD_setWidth]
  have h40 : (x.getLsbD (60 + k - 40)) = false := BitVec.getLsbD_of_ge _ _ (by omega)
  have h24 : (y.getLsbD (60 + k - 24)) = false := BitVec.getLsbD_of_ge _ _ (by omega)
  have h0 : (low.getLsbD (60 + k)) = false := BitVec.getLsbD_of_ge _ _ (by omega)
  rw [h40, h24, h0, Nat.add_sub_cancel_left, BitVec.getLsbD_eq_getElem hk]
  have hlt : 60 + k < 64 := by omega
  have hlt' : k < 64 := by omega
  simp [hlt, hlt']

theorem OpcodeField.panelInit (pin : PinId) : OpcodeField.Statement (.panelInit pin) :=
  opcodeField_packWord _ _ _ _

theorem OpcodeField.setBrightness (level : Byte) : OpcodeField.Statement (.setBrightness level) :=
  opcodeField_packWord _ _ _ _

theorem OpcodeField.clear : OpcodeField.Statement .clear := opcodeField_packWord _ _ _ _

theorem OpcodeField.drawPixel (x y : Int) (r g b : Byte) : OpcodeField.Statement (.drawPixel x y r g b) :=
  opcodeField_packWord _ _ _ _

theorem OpcodeField.drawPixelPacked (x y : Int) (color : Packed) :
    OpcodeField.Statement (.drawPixelPacked x y color) := opcodeField_packWord _ _ _ _

theorem OpcodeField.showFrame : OpcodeField.Statement .showFrame := opcodeField_packWord _ _ _ _

end Sys2Proof.Laws
end

