-- ==== Sys2Proof/Tests/Slice0.lean ====
section
/-! SUPPORT. The model's own tests. Expected values are those of 95_test_vectors.md and of the rules' worked
examples, named at each test. The second half shows, for each statement that has hypotheses, concrete values
that meet them together. -/

namespace Sys2Proof.Tests

open Sys2Proof.Machine

/-! ### Small states -/

/-- A constructed block: pin 6, brightness 255, framebuffer zero (R28). -/
def idleState : State :=
  { State.reset with mode := .idle, dout := .l, pin := 6#8, bright := 255#8, fb := Memory.fill 0#8 }

/-- The block with one green-blue pixel at LED 64 (program P2) and a brightness. -/
def litState (level : Byte) : State :=
  { idleState with fb := [(192, 200#8), (193, 10#8), (194, 255#8)], bright := level }

/-- The serializer about to send the one byte `0x80` (vector V-W2, program P5). -/
def oneByteState : State := { idleState with txbuf := [(0, 0x80#8)] }

/-- A block in the first cycle of a flush. -/
def sendingState : State := startTransmit frameLength (copyScaled idleState)

/-- A block in the last cycle of a latch gap. -/
def latchState : State := { sendingState with mode := .latch, dout := .l, phase := .lo, tmr := 0#16, txi := 768#16 }

/-- A property of the next state, false where there is none. -/
def nextHas (o : Host.Outcome State Fault Refusal) (p : State → Bool) : Bool :=
  match o with
  | .next t => p t
  | .fault _ => false
  | .refused _ => false

/-- Refused, with this reason. -/
def refusedWith (o : Host.Outcome State Fault Refusal) (r : Refusal) : Bool :=
  match o with
  | .next _ => false
  | .fault _ => false
  | .refused r' => decide (r' = r)

/-! ### Well-formedness refuses each ill-formed operand (R81) -/

theorem test_wf_refuses_large_x : (Instr.drawPixel 32768 0 1#8 2#8 3#8).wf = false := by decide
theorem test_wf_refuses_small_x : (Instr.drawPixel (-32769) 0 1#8 2#8 3#8).wf = false := by decide
theorem test_wf_refuses_large_y : (Instr.drawPixel 0 32768 1#8 2#8 3#8).wf = false := by decide
theorem test_wf_refuses_small_y : (Instr.drawPixel 0 (-32769) 1#8 2#8 3#8).wf = false := by decide
theorem test_wf_refuses_packed_x : (Instr.drawPixelPacked 32768 0 0#24).wf = false := by decide
theorem test_wf_refuses_packed_y : (Instr.drawPixelPacked 0 (-32769) 0#24).wf = false := by decide

/-! ### Words written out from R73 to R76 (vectors V-E1 to V-E11, V-P16) -/

theorem test_decode_panelInit : decodeWord 0x1000000000000006#64 = .ok (.panelInit 6#8) := by decide
theorem test_decode_setBrightness_ignores_bit8 :
    decodeWord 0x2000000000000180#64 = .ok (.setBrightness 128#8) := by decide
theorem test_decode_clear_ignores_operands : decodeWord 0x3123456789ABCDEF#64 = .ok .clear := by decide
theorem test_decode_drawPixel : decodeWord 0x4000050005000000#64 = .ok (.drawPixel 5 5 0#8 0#8 0#8) := by decide
theorem test_decode_drawPixel_negative :
    decodeWord 0x40FFFF0000010203#64 = .ok (.drawPixel (-1) 0 1#8 2#8 3#8) := by decide
theorem test_decode_drawPixel_ignores_rsv :
    decodeWord 0x4F00010000FF0000#64 = .ok (.drawPixel 1 0 255#8 0#8 0#8) := by decide
theorem test_decode_drawPixelPacked :
    decodeWord 0x50001F0007112233#64 = .ok (.drawPixelPacked 31 7 0x112233#24) := by decide
theorem test_decode_show : decodeWord 0x6000000000000000#64 = .ok .showFrame := by decide
theorem test_decode_rejects_zero : decodeWord 0#64 = .error (.reservedOpcode 0#4) := by decide
theorem test_decode_rejects_seven : decodeWord 0x7000000000000000#64 = .error (.reservedOpcode 7#4) := by decide
theorem test_decode_rejects_ones : decodeWord 0xFFFFFFFFFFFFFFFF#64 = .error (.reservedOpcode 15#4) := by decide
theorem test_encode_drawPixel : encode (.drawPixel (-32768) 0 1#8 2#8 3#8) = 0x4080000000010203#64 := by decide
theorem test_encode_packed : encode (.drawPixelPacked 9 3 0xFF8000#24) = 0x5000090003FF8000#64 := by decide
theorem test_tableWord : decodeTableWord 64 0x2000000000000000 = some (.setBrightness 0#8) := by decide

/-! ### The commands -/

/-- V-M1, R28. -/
theorem test_panelInit_from_reset : nextHas (exec (.panelInit 6#8) State.reset) (fun t =>
    t.mode == .idle && t.pin == 6#8 && t.dout == .l && t.bright == 255#8 && t.fb.read 767 == some 0#8) = true := by
  decide +kernel
/-- V-M5. -/
theorem test_panelInit_again : nextHas (exec (.panelInit 9#8) (litState 7#8)) (fun t =>
    t.pin == 9#8 && t.bright == 255#8 && t.fb.read 193 == some 0#8 && t.wire.isEmpty) = true := by
  decide +kernel
/-- R142's example. -/
theorem test_setBrightness : nextHas (exec (.setBrightness 128#8) idleState) (fun t => t.bright == 128#8) = true := by
  decide +kernel
/-- R143's example. -/
theorem test_clear : nextHas (exec .clear { idleState with fb := [(46, 255#8)] }) (fun t =>
    t.fb.read 46 == some 0#8) = true := by decide +kernel
/-- V-P1: green 8, red 9, blue 7. -/
theorem test_drawPixel_order : nextHas (exec (.drawPixel 0 0 9#8 8#8 7#8) idleState) (fun t =>
    t.storedTriple 0 == [8#8, 9#8, 7#8] && t.fb.read 3 == some 0#8) = true := by decide +kernel
/-- V-P7: row 8 is no row, although `8 mod 8` is 0. -/
theorem test_drawPixel_row8_dropped : nextHas (exec (.drawPixel 0 8 1#8 2#8 3#8) idleState) (fun t =>
    decide (t.fb = idleState.fb)) = true := by decide +kernel
/-- V-P13. -/
theorem test_packed : nextHas (exec (.drawPixelPacked 31 7 0x112233#24) idleState) (fun t =>
    t.storedTriple 248 == [0x22#8, 0x11#8, 0x33#8]) = true := by decide +kernel
/-- V-P15. -/
theorem test_packed_dropped : nextHas (exec (.drawPixelPacked 32 0 0xFFFFFF#24) idleState) (fun t =>
    decide (t.fb = idleState.fb)) = true := by decide +kernel
/-- Program P2, frame C: `TXBUF[192..194]` = 198, 9, 253; `FB` as before. -/
theorem test_show_scales : nextHas (exec .showFrame (litState 254#8)) (fun t =>
    t.memReadTx 192 3 == [198#8, 9#8, 253#8] && t.storedTriple 64 == [200#8, 10#8, 255#8]) = true := by
  decide +kernel
/-- R148's example: byte 46 occupies wire bits 368 to 375. -/
theorem test_show_wire : nextHas (exec .showFrame { idleState with fb := (Memory.fill 0#8).write 46 255#8 })
    (fun t => (t.wire.drop 367).take 10 == [.t0, .t1, .t1, .t1, .t1, .t1, .t1, .t1, .t1, .t0]) = true := by
  decide +kernel
/-- V-M2. -/
theorem test_show_unbound_refused :
    refusedWith (exec .showFrame State.reset) (.notConstructed "SHOW") = true := by decide +kernel

/-- R23 and R100's example: the pad a block is bound to is low, also after a second binding. -/
theorem test_panelInit_pad : nextHas (exec (.panelInit 9#8) (litState 7#8)) (fun t => t.pad 9#8 == .l) = true := by
  decide +kernel

/-! ### Map, scaler, serializer, text layer -/

/-- V-G4, V-G5, V-G10, V-G13, V-G15. -/
theorem test_map : [map 1 0, map 5 5, map 12 4, map 25 7, map 31 7] = [15, 42, 100, 200, 248] := by decide
/-- V-B1, V-B5, V-B18, V-B23: truncation, and the step at 255. -/
theorem test_scale : [scale 255#8 255#8, scale 255#8 254#8, scale 128#8 127#8, scale 255#8 2#8] =
    [255#8, 253#8, 63#8, 1#8] := by decide
/-- V-W3. -/
theorem test_transmit_A5 : transmitSymbols [0xA5#8] = [.t1, .t0, .t1, .t0, .t0, .t1, .t0, .t1, .reset] := by decide
/-- V-W2, edge 11. -/
theorem test_edge_11 : let t := clockEdges 11 (startTransmit 1#16 oneByteState)
    (t.phase, t.dout, t.tmr) = (.lo, .l, 9#16) := by decide +kernel
/-- V-W2, edge 21. -/
theorem test_edge_21 : let t := clockEdges 21 (startTransmit 1#16 oneByteState)
    (t.biti, t.phase, t.dout, t.tmr) = (6#3, .hi, .h, 5#16) := by decide +kernel
/-- V-W4. -/
theorem test_duration : durationCycles [0x00#8, 0xFF#8] = 1120 := by decide
/-- V-T4: −4 → −5 → 32. -/
theorem test_scroll : [scrollNext ['#'] (-4), scrollNext ['#'] (-5)] = [-5, 32] := by decide
/-- V-T1: columns 32 and 33 are issued, and dropped by the block. -/
theorem test_drawChar : (drawChar (fun _ _ _ => true) '#' 1 30 0x10#24).length = 24 := by decide

/-! ### Hypotheses are met -/

theorem idleState_ready : idleState.idleReady := ⟨rfl, rfl⟩

theorem test_idleState_wf : idleState.fb.wf = true := Memory.fill_wf _

theorem test_idleState_inv : idleState.Inv where
  fb_wf := Memory.fill_wf _
  txbuf_wf := rfl
  fb_full := fun _ => Memory.fill_full _
  txbuf_full := by rintro (h | h) <;> exact absurd h (by decide)
  unbound_iff := by decide
  idle_low := fun _ => rfl
  latch_low := fun _ => rfl
  high_only := fun h => absurd h (by decide)
  high_phase := fun h => absurd h (by decide)
  cursor := fun h => absurd h (by decide)
  length := fun h => absurd h (by decide)
  high_timer := fun h => absurd h (by decide)
  low_timer := fun h => absurd h (by decide)
  latch_timer := fun h => absurd h (by decide)
  busy_zero := fun _ => rfl
  pending := fun h => absurd h (by decide)
  leds_length := by simp [idleState, State.reset, State.afterReset, freeLeds]
  lowCyc_le := by decide

theorem sendingState_eq : sendingState = driveHigh
    { copyScaled idleState with
      txlen := frameLength, txi := 0#16, biti := 7#3, mode := .sending
      armed := decide (Config.cycReset ≤ idleState.lowCyc) } := rfl

theorem test_sendingState_inv : sendingState.Inv where
  fb_wf := Memory.fill_wf _
  txbuf_wf := Memory.ofFn_wf _
  fb_full := fun _ => Memory.fill_full _
  txbuf_full := fun _ => Memory.ofFn_full _
  unbound_iff := by rw [sendingState_eq]; simp
  idle_low := by rw [sendingState_eq]; simp
  latch_low := by rw [sendingState_eq]; simp
  high_only := by rw [sendingState_eq]; simp
  high_phase := by rw [sendingState_eq]; simp
  cursor := by rw [sendingState_eq]; decide
  length := by rw [sendingState_eq]; intro _; rfl
  high_timer := by
    rw [sendingState_eq]
    intro _ _
    rw [driveHigh_tmr, driveHigh_curBit, timerFor_cycHigh]
    exact Nat.sub_lt (cycHigh_pos _) Nat.one_pos
  low_timer := by rw [sendingState_eq]; simp
  latch_timer := by rw [sendingState_eq]; simp
  busy_zero := by rw [sendingState_eq]; intro _; rfl
  pending := by rw [sendingState_eq]; intro h; exact absurd h (by decide)
  leds_length := by rw [sendingState_eq]; simp [idleState, State.reset, State.afterReset, freeLeds]
  lowCyc_le := by rw [sendingState_eq]; decide

/-- DecodeOfEncodeIsTheCommand. -/
theorem test_witness_wellFormed : (Instr.drawPixel (-32768) 32767 1#8 2#8 3#8).wf = true := by decide
/-- DecodedWordIsCanonicalOnUsedBits; UnusedBitsAreIgnored. -/
theorem test_witness_unusedBits : decodeWord 0x3123456789ABCDEF#64 = .ok .clear ∧
    0x3123456789ABCDEF#64 &&& Instr.clear.usedBits = 0x3000000000000000#64 &&& Instr.clear.usedBits := by decide
/-- OpcodeDecidesTheCommand, one word for each clause, the reserved ones at the ends of their ranges. -/
theorem test_witness_opcodes :
    ([0x1000000000000000#64, 0x2000000000000000#64, 0x3000000000000000#64, 0x4000000000000000#64,
      0x5000000000000000#64, 0x6000000000000000#64, 0#64, 0x7000000000000000#64,
      0xF000000000000000#64].map fun w => (w.extractLsb' 60 4).toNat) = [1, 2, 3, 4, 5, 6, 0, 7, 15] := by decide
/-- StepRunsTheIssuedCommand. -/
theorem test_witness_issued : let s := { idleState with stimuli := [.command 0x3000000000000000#64] }
    s.stimuli = .command 0x3000000000000000#64 :: [] ∧ s.cmdReady = true ∧
    decodeWord 0x3000000000000000#64 = .ok .clear := by
  refine ⟨rfl, rfl, by decide⟩
/-- EdgeCompletesEveryCommandButShow. -/
theorem test_witness_edge : let s := { idleState with stimuli := [.edge false true 0x2000000000000007#64] }
    s.stimuli = .edge false true 0x2000000000000007#64 :: [] ∧ s.cmdReady = true ∧
    decodeWord 0x2000000000000007#64 = .ok (.setBrightness 7#8) ∧ Instr.setBrightness 7#8 ≠ .showFrame ∧
    exec (.setBrightness 7#8) { s with stimuli := [] } = .next { idleState with bright := 7#8 } :=
  ⟨rfl, rfl, by decide, by decide, rfl⟩
/-- EdgeStartsTheFrame; ClockedShowReachesTheAtomicShow. -/
theorem test_witness_showEdge : let s := { idleState with stimuli := [.edge false true 0x6000000000000000#64] }
    s.stimuli = .edge false true 0x6000000000000000#64 :: [] ∧ s.idleReady ∧
    decodeWord 0x6000000000000000#64 = .ok .showFrame := ⟨rfl, ⟨rfl, rfl⟩, by decide⟩
/-- CommandsBeforeConstructionAreRefused. -/
theorem test_witness_unbound : State.reset.mode = .unbound ∧ State.reset.busy = 0 := ⟨rfl, rfl⟩
/-- EveryStepHasOneOfThreeOutcomes, a clause each: a block that is not ready, nothing offered, a reserved opcode at
either end of its range, a command before construction, and `PANEL_INIT` there. -/
theorem test_witness_outcomes :
    sendingState.cmdReady = false ∧ (∀ w, ¬ idleState.offers w) ∧ State.reset.cmdReady = true ∧
    (∀ w, ({ State.reset with stimuli := [.command w] } : State).offers w) ∧
    decodeWord 0x7000000000000000#64 = .error (.reservedOpcode 7#4) ∧
    decodeWord 0xF000000000000000#64 = .error (.reservedOpcode 15#4) ∧
    State.reset.mode = .unbound ∧ decodeWord 0x6000000000000000#64 = .ok .showFrame ∧
    (∀ pin, Instr.showFrame ≠ .panelInit pin) ∧ decodeWord 0x10000000000000FF#64 = .ok (.panelInit 255#8) ∧
    idleState.mode ≠ .unbound := by
  refine ⟨rfl, ?_, rfl, fun w => ⟨[], .inl rfl⟩, by decide, by decide, rfl, by decide, fun _ => by simp, by decide,
    by decide⟩
  rintro w ⟨rest, h | h⟩ <;> exact absurd h (by simp [idleState, State.reset, State.afterReset])
/-- OfferedCommandWaitsDuringFrame, a clause each. -/
theorem test_witness_waits : sendingState.mode.transmitting = true ∧
    ({ sendingState with stimuli := [.command 0#64] } : State).stimuli = .command 0#64 :: [] ∧
    ({ sendingState with stimuli := [.edge false true 0#64] } : State).stimuli = .edge false true 0#64 :: [] :=
  ⟨rfl, rfl, rfl⟩
/-- IssuedProgramRunsToItsEnd. -/
theorem test_witness_program :
    let s := { State.reset with stimuli := [.command 0x1000000000000006#64, .command 0x3000000000000000#64] }
    s.cmdReady = true ∧ (∀ i ∈ [Instr.clear], i.wf = true) ∧
    s.stimuli = (Instr.panelInit 6#8 :: [.clear]).map (fun i => Stimulus.command (encode i)) := by
  refine ⟨rfl, by decide, by decide⟩
/-- ResetEdgeGivesTheResetState; ResetLeavesFreshFreeValues. -/
theorem test_witness_resetEdge : ({ sendingState with stimuli := [.edge true false 0#64] } : State).stimuli =
    .edge true false 0#64 :: [] := rfl
/-- LineStaysDrivenUntilReset; StepKeepsInv; SelectedPadCarriesTheLine: the block starts a transmission's first countdown. -/
theorem test_witness_step : sendingState.Inv ∧ sendingState.noReset ∧ sendingState.mode ≠ .unbound ∧
    step sendingState = .next (clockEdge sendingState) :=
  ⟨test_sendingState_inv, State.noReset_of_nil rfl, by decide, rfl⟩
/-- PanelInitConstructs; CommandTwiceIsOnceButForTheWire; SelectedPadCarriesTheLine: in both modes. -/
theorem test_witness_cmdReady : State.reset.cmdReady = true ∧ idleState.cmdReady = true ∧
    State.reset.fb.wf = true ∧ (State.reset.mode = .unbound → ∃ pin, Instr.panelInit 6#8 = .panelInit pin) :=
  ⟨rfl, rfl, rfl, fun _ => ⟨6#8, rfl⟩⟩
/-- InitializeBindsSupportedPins, a clause each. -/
theorem test_witness_supported : (fun p : PinId => decide (p = 6#8)) 6#8 = true ∧
    (fun p : PinId => decide (p = 6#8)) 7#8 = false := by decide
/-- DrawPixelStoresOneTriple, the corners of the panel and the first coordinates outside it. -/
theorem test_witness_bounds : inBounds 0 0 = true ∧ inBounds 31 7 = true ∧ inBounds 32 0 = false ∧
    inBounds (-1) 0 = false ∧ inBounds 0 8 = false ∧ inBounds 0 (-1) = false := by decide
/-- SetBrightnessStoresTheLevel, ClearZeroesTheFramebuffer, PackedPixelIsThePixelOfItsChannels,
LastPixelWriteWins, ShowSendsTheScaledCopy, TwoShowsSendTheSameFrame, BrightnessIsNonDestructive,
ScrollStepDrawsTheString. -/
theorem test_witness_idleReady : idleState.idleReady ∧ idleState.fb.wf = true :=
  ⟨idleState_ready, test_idleState_wf⟩
/-- PixelWriteTouchesNoOtherLed. -/
theorem test_witness_twoPixels : ((0, 0) : Nat × Nat) ≠ (31, 7) ∧
    exec (.drawPixel (0 : Nat) (0 : Nat) 1#8 2#8 3#8) idleState =
      .next { idleState with fb := plot idleState.fb (0 : Nat) (0 : Nat) 1#8 2#8 3#8 } := ⟨by decide, rfl⟩
/-- ShowLightsTheLeds. -/
theorem test_witness_settledLine : let s := { idleState with lowCyc := 800 }
    s.idleReady ∧ Config.cycReset ≤ s.lowCyc := ⟨⟨rfl, rfl⟩, by decide⟩
/-- TransmitAppendsItsSymbols; ClockedMachineRefinesTransmit, at both ends of the length. -/
theorem test_witness_length : (1#16 : BitVec 16) ≠ 0#16 ∧ (65535#16 : BitVec 16) ≠ 0#16 := by decide
/-- TimerCountsDown; TransmissionAlwaysEnds; FramebufferIsFrozenDuringFrame. -/
theorem test_witness_counting : sendingState.Inv ∧ sendingState.mode.transmitting = true ∧
    sendingState.noReset ∧ ({ sendingState with tmr := 5#16 } : State).tmr ≠ 0#16 :=
  ⟨test_sendingState_inv, rfl, State.noReset_of_nil rfl, by decide⟩
/-- HighPhaseEndsInLow. -/
theorem test_witness_highEnds : let s := { sendingState with tmr := 0#16 }
    s.mode = .sending ∧ s.phase = .hi ∧ s.tmr = 0#16 := ⟨rfl, rfl, rfl⟩
/-- LowPhaseAdvancesTheCursor: the last bit of the last byte, and any other bit. -/
theorem test_witness_lowEnds :
    let s := { sendingState with tmr := 0#16, phase := .lo, dout := .l }
    let last := { s with txi := 767#16, biti := 0#3 }
    s.mode = .sending ∧ s.phase = .lo ∧ s.tmr = 0#16 ∧ s.biti ≠ 0#3 ∧ s.txi ≠ s.txlen ∧
    last.mode = .sending ∧ last.phase = .lo ∧ last.tmr = 0#16 ∧ last.txi + 1#16 = last.txlen := by
  refine ⟨rfl, rfl, rfl, by decide, by decide, rfl, rfl, rfl, by decide⟩
/-- LatchEndsInIdle. -/
theorem test_witness_latchEnds : latchState.mode = .latch ∧ latchState.tmr = 0#16 ∧
    latchState.txlen = 768#16 ∧ ({ latchState with armed := true } : State).armed = true := ⟨rfl, rfl, rfl, rfl⟩
/-- WaveformReadsBackAsItsSymbols; DurationOfATransmission. -/
theorem test_witness_bytes : ([0x80#8] : List Byte) ≠ [] ∧ (List.replicate 768 0#8 : List Byte).length = 768 :=
  ⟨by decide, List.length_replicate⟩
/-- HeldOfferReachesAReadyBlock, each alternative. -/
theorem test_witness_heldOffer :
    ({ sendingState with stimuli := [.command 0#64] } : State).Inv ∧
    ({ sendingState with stimuli := List.replicate 129825 (.edge false true 0#64) } : State).stimuli =
      List.replicate 129825 (.edge false true 0#64) ++ [] := by
  refine ⟨?_, (List.append_nil _).symm⟩
  have h := test_sendingState_inv
  exact { h with }
/-- WireOnlyGrows; InterruptBracket: a step of the host's own is met too. -/
theorem test_witness_hostStep : let s := { idleState with stimuli := [.hostIe true] }
    s.noReset ∧ step s = .next { idleState with ieHost := true } :=
  ⟨by intro _ _ _ h; exact absurd h (by simp), rfl⟩
/-- OnlyShowReachesTheWire. -/
theorem test_witness_notShow : idleState.cmdReady = true ∧ Instr.clear ≠ .showFrame ∧
    exec .clear idleState = .next { idleState with fb := Memory.fill 0#8 } := ⟨rfl, by decide, rfl⟩
/-- SerializerIgnoresHostAndFramebuffer. -/
theorem test_witness_notBusy : sendingState.busy = 0 := rfl
/-- R238: a host that holds its word, over a write of `IE_host` too, until the block accepts it keeps the
discipline. -/
theorem test_port_discipline_held :
    ({ latchState with stimuli := [.edge false true 0x2000000000000007#64, .hostIe true,
      .edge false true 0x2000000000000007#64] } : State).portDisciplined := by
  refine (State.portDisciplined_iff _).mpr ⟨rfl, fun t ht => ?_⟩
  cases ht
  refine (State.portDisciplined_iff _).mpr ⟨rfl, fun t ht => ?_⟩
  cases ht
  refine (State.portDisciplined_iff _).mpr ⟨by decide +kernel, fun t ht => ?_⟩
  exact State.portDisciplined_of_nil (by obtain rfl := Host.Outcome.next.inj ht; rfl)

/-- R238: withdrawing the word, changing it after a write of `IE_host`, issuing another command, or withdrawing at a
reset breaks it. -/
theorem test_port_discipline_broken :
    ([[.edge false true 1#64], [.edge false true 1#64, .edge false false 1#64],
      [.edge false true 1#64, .hostIe true, .edge false true 2#64], [.edge false true 1#64, .command 2#64],
      [.edge false true 1#64, .edge true false 1#64]] : List (List Stimulus)).all
      (fun l => !({ sendingState with stimuli := l } : State).offerHeld) = true := by decide +kernel

/-! ### The step on a placed word (what the host asks of the first instruction) -/

theorem test_fetch_runs_panelInit :
    step (State.reset.withFetchWord 64 0x1000000000000006) = exec (.panelInit 6#8) State.reset := rfl
theorem test_fetch_runs_clear :
    step (idleState.withFetchWord 64 0x3000000000000000) = exec .clear idleState := rfl

end Sys2Proof.Tests
end

section
/-! PROOFS. The clocked serializer against `SD.transmit` (R8, R110 to R115, R118, R121). A transmission is followed
from the cursor's present place to its end: a phase of the line is held for its cycles, a bit is a high and a low
phase, and the symbols still to be sent are consumed one bit at a time. `SHOW` at a clock edge is then one accepting
edge and one transmission. -/

namespace Sys2Proof.Machine

/-! ### The waveform of a symbol list, and how long it lasts (R118) -/

@[simp] theorem waveform_nil : waveform [] = [] := rfl

@[simp] theorem waveform_cons (y : Sym) (ys : List Sym) : waveform (y :: ys) = symLevels y ++ waveform ys := rfl

@[simp] theorem waveform_append (xs ys : List Sym) : waveform (xs ++ ys) = waveform xs ++ waveform ys :=
  List.flatMap_append

theorem symLevels_symOfBit (v : Bool) :
    symLevels (symOfBit v) = List.replicate (cycHigh v) .h ++ List.replicate (cycLow v) .l := by
  cases v <;> rfl

@[simp] theorem dataSymbols_nil : dataSymbols [] = [] := rfl

@[simp] theorem dataSymbols_cons (t : Byte) (ts : List Byte) :
    dataSymbols (t :: ts) = byteSymbols t ++ dataSymbols ts := rfl

theorem transmitSymbols_of_ne_nil {t : List Byte} (h : t ≠ []) : transmitSymbols t = dataSymbols t ++ [.reset] := by
  simp [transmitSymbols, h]

/-- The bits of a byte at the listed places, `p` telling which are 1: each 1 lasts a `T1`, each other bit a `T0`. -/
theorem waveform_bits_length (p : Nat → Bool) (js : List Nat) :
    (waveform (js.map fun j => symOfBit (p j))).length =
      (js.filter p).length * (Config.cycT1H + Config.cycT1L)
        + (js.length - (js.filter p).length) * (Config.cycT0H + Config.cycT0L) := by
  induction js with
  | nil => rfl
  | cons j js ih =>
    have hle : (js.filter p).length ≤ js.length := List.length_filter_le p js
    cases hp : p j <;>
      simp [hp, ih, symLevels_symOfBit, cycHigh, cycLow, Config.cycT1H, Config.cycT1L, Config.cycT0H, Config.cycT0L] <;>
      omega

theorem byteOnes_le (t : Byte) : byteOnes t ≤ 8 := List.length_filter_le _ [7, 6, 5, 4, 3, 2, 1, 0]

theorem onesIn_le (t : List Byte) : onesIn t ≤ 8 * t.length := by
  induction t with
  | nil => exact Nat.le_refl 0
  | cons b bs ih =>
    have hb := byteOnes_le b
    simp only [onesIn, List.map_cons, List.sum_cons, List.length_cons] at ih ⊢
    omega

theorem waveform_dataSymbols_length (t : List Byte) :
    (waveform (dataSymbols t)).length =
      onesIn t * (Config.cycT1H + Config.cycT1L) + (8 * t.length - onesIn t) * (Config.cycT0H + Config.cycT0L) := by
  induction t with
  | nil => rfl
  | cons b bs ih =>
    have hb : (waveform (byteSymbols b)).length =
        byteOnes b * (Config.cycT1H + Config.cycT1L) + (8 - byteOnes b) * (Config.cycT0H + Config.cycT0L) :=
      waveform_bits_length (b.getLsbD ·) [7, 6, 5, 4, 3, 2, 1, 0]
    have hones : onesIn (b :: bs) = byteOnes b + onesIn bs := rfl
    have hle := byteOnes_le b
    have hles := onesIn_le bs
    rw [dataSymbols_cons, waveform_append, List.length_append, hb, ih, hones, List.length_cons]
    simp only [Config.cycT1H, Config.cycT1L, Config.cycT0H, Config.cycT0L]
    omega

theorem waveform_transmitSymbols_length {t : List Byte} (h : t ≠ []) :
    (waveform (transmitSymbols t)).length = durationCycles t := by
  simp [transmitSymbols_of_ne_nil h, waveform_dataSymbols_length, durationCycles, symLevels]

/-! ### One edge of the serializer, by what it does (R111, R112, R113, R115) -/

theorem clockEdge_of_counting {s : State} (hm : s.mode.transmitting = true) (ht : s.tmr ≠ 0#16) :
    clockEdge s = observe { s with tmr := s.tmr - 1#16 } := by
  cases h : s.mode <;> simp_all [clockEdge, advance]

theorem clockEdge_of_highDone {s : State} (hm : s.mode = .sending) (ht : s.tmr = 0#16) (hp : s.phase = .hi) :
    clockEdge s = observe (highToLow s) := by
  simp [clockEdge, advance, hm, ht, hp]

theorem clockEdge_of_lowDone {s : State} (hm : s.mode = .sending) (ht : s.tmr = 0#16) (hp : s.phase = .lo) :
    clockEdge s = observe (nextBit s) := by
  simp [clockEdge, advance, hm, ht, hp]

theorem clockEdge_of_latchDone {s : State} (hm : s.mode = .latch) (ht : s.tmr = 0#16) :
    clockEdge s = observe (endLatch s) := by
  simp [clockEdge, advance, hm, ht]

theorem clockEdges_succ (k : Nat) (s : State) : clockEdges (k + 1) s = clockEdge (clockEdges k s) :=
  clockEdges_add k 1 s

/-! ### A phase of the line -/

/-- The line held as it is for `n` recorded cycles, the timer run down. -/
def holdLine (n : Nat) (s : State) : State :=
  { s with
    tmr := 0#16
    trace := List.replicate n s.dout ++ s.trace
    lowCyc := if s.dout = .l then min (s.lowCyc + n) Config.cycReset else 0 }

theorem holdLine_one {s : State} (ht : s.tmr = 0#16) : observe s = holdLine 1 s := by
  simp [observe, holdLine, ← ht]

theorem holdLine_observe (n : Nat) (s : State) (v : BitVec 16) :
    holdLine n { observe s with tmr := v } = holdLine (n + 1) s := by
  have htrace : List.replicate n s.dout ++ s.dout :: s.trace = List.replicate (n + 1) s.dout ++ s.trace := by
    rw [List.replicate_succ', List.append_assoc, List.singleton_append]
  have hlow : min (min (s.lowCyc + 1) Config.cycReset + n) Config.cycReset =
      min (s.lowCyc + (n + 1)) Config.cycReset := by omega
  simp only [holdLine, observe, htrace]
  split <;> simp [hlow]

/-- R21, R111: a timer loaded with `n` keeps the line for the `n + 1` cycles from the one that begins now. -/
theorem clockEdges_countdown (n : Nat) {s : State} (hm : s.mode.transmitting = true) (ht : s.tmr.toNat = n) :
    clockEdges n (observe s) = holdLine (n + 1) s := by
  induction n generalizing s with
  | zero => exact holdLine_one (BitVec.eq_of_toNat_eq ht)
  | succ n ih =>
    have hne : s.tmr ≠ 0#16 := by rintro h; simp [h] at ht
    have hdec : (s.tmr - 1#16).toNat = n := by bv_omega
    have hedge : clockEdge (observe s) = observe { observe s with tmr := s.tmr - 1#16 } :=
      clockEdge_of_counting (s := observe s) hm hne
    calc clockEdges (n + 1) (observe s)
        = clockEdges n (observe { observe s with tmr := s.tmr - 1#16 }) := by rw [clockEdges, hedge]
      _ = holdLine (n + 1) { observe s with tmr := s.tmr - 1#16 } := ih hm hdec
      _ = holdLine (n + 1 + 1) s := holdLine_observe _ _ _

/-- A phase of `n` cycles is held, and the edge that ends it comes. -/
theorem clockEdges_phase {n : Nat} (hn : 0 < n) {s : State} (hm : s.mode.transmitting = true)
    (ht : s.tmr.toNat = n - 1) : clockEdges n (observe s) = clockEdge (holdLine n s) := by
  obtain ⟨k, rfl⟩ := Nat.exists_eq_add_one_of_ne_zero hn.ne'
  rw [clockEdges_succ, clockEdges_countdown k hm ht]

/-! ### One bit (R110, R112, R113) -/

/-- The bit under the cursor is sent, its symbol and its cycles are recorded, and the cursor is still on it. -/
def bitSent (s : State) : State :=
  { s with
    phase := .lo
    dout := .l
    tmr := 0#16
    wire := s.wire ++ [symOfBit s.curBit]
    trace := (symLevels (symOfBit s.curBit)).reverse ++ s.trace
    lowCyc := cycLow s.curBit }

/-- The high and the low phase of the bit under the cursor, one held after the other. -/
def bothPhases (s : State) : State :=
  holdLine (cycLow s.curBit) (highToLow (holdLine (cycHigh s.curBit) (driveHigh s)))

theorem bothPhases_appendSymbol (s : State) :
    { bothPhases s with wire := (bothPhases s).wire ++ [symOfBit (bothPhases s).curBit] } = bitSent s := by
  have hcur : (bothPhases s).curBit = s.curBit := rfl
  have hlow : cycLow s.curBit ≤ Config.cycReset := by cases s.curBit <;> decide
  rw [hcur]
  simp [bothPhases, holdLine, bitSent, highToLow, driveHigh, symLevels_symOfBit, hlow]

theorem clockEdges_bothPhases {s : State} (hm : s.mode = .sending) :
    clockEdges (symLevels (symOfBit s.curBit)).length (observe (driveHigh s)) = observe (nextBit (bothPhases s)) := by
  have hhigh : clockEdges (cycHigh s.curBit) (observe (driveHigh s)) =
      observe (highToLow (holdLine (cycHigh s.curBit) (driveHigh s))) := by
    rw [clockEdges_phase (cycHigh_pos _) (by simp [hm]) (timerFor_cycHigh _)]
    exact clockEdge_of_highDone hm rfl rfl
  have hlow : clockEdges (cycLow s.curBit) (observe (highToLow (holdLine (cycHigh s.curBit) (driveHigh s)))) =
      observe (nextBit (bothPhases s)) := by
    rw [clockEdges_phase (cycLow_pos _) (by simp [holdLine, hm]) (timerFor_cycLow _)]
    exact clockEdge_of_lowDone hm rfl rfl
  rw [symLevels_symOfBit, List.length_append, List.length_replicate, List.length_replicate, clockEdges_add, hhigh,
    hlow]

/-- `bitSent` with the cursor moved on (R113). -/
def afterBit (s : State) : State := advanceCursor (bitSent s)

@[simp] theorem afterBit_mode (s : State) : (afterBit s).mode = s.mode := advanceCursor_mode _
@[simp] theorem afterBit_txlen (s : State) : (afterBit s).txlen = s.txlen := advanceCursor_txlen _
@[simp] theorem afterBit_phase (s : State) : (afterBit s).phase = .lo := advanceCursor_phase _
@[simp] theorem afterBit_dout (s : State) : (afterBit s).dout = .l := advanceCursor_dout _

theorem nextBit_bothPhases (s : State) :
    nextBit (bothPhases s) =
      if (afterBit s).txi = s.txlen then beginLatch (afterBit s) else driveHigh (afterBit s) := by
  rw [nextBit, bothPhases_appendSymbol, ← afterBit, afterBit_txlen]

/-- R110, R112 to R114: from the first cycle of a bit, the bit takes the cycles of its symbol, and the edge that ends
it starts the next bit or, at the end of the data, the latch gap. -/
theorem clockEdges_bit {s : State} (hm : s.mode = .sending) :
    clockEdges (symLevels (symOfBit s.curBit)).length (observe (driveHigh s)) =
      observe (if (afterBit s).txi = s.txlen then beginLatch (afterBit s) else driveHigh (afterBit s)) := by
  rw [clockEdges_bothPhases hm, nextBit_bothPhases]

/-! ### The symbols still to be sent -/

/-- What the rest of the transmission sends, from the bit under the cursor on. -/
def State.remaining (s : State) : List Sym :=
  (dataSymbols (s.memReadTx s.txi.toNat (s.txlen.toNat - s.txi.toNat))).drop (7 - s.biti.toNat)

theorem byteSymbols_drop (t : Byte) (b : BitVec 3) :
    (byteSymbols t).drop (7 - b.toNat) = symOfBit (t.getLsbD b.toNat) :: (byteSymbols t).drop (8 - b.toNat) := by
  have hb : b.toNat < 8 := b.isLt
  interval_cases b.toNat <;> rfl

theorem State.memReadTx_succ (s : State) (a n : Nat) :
    s.memReadTx a (n + 1) = s.txByte a :: s.memReadTx (a + 1) n := rfl

/-- Inside the data: the rest of the byte under the cursor, then the bytes after it. -/
theorem State.remaining_of_lt {s : State} (h : s.txi.toNat < s.txlen.toNat) :
    s.remaining = (byteSymbols (s.txByte s.txi.toNat)).drop (7 - s.biti.toNat) ++
      dataSymbols (s.memReadTx (s.txi.toNat + 1) (s.txlen.toNat - (s.txi.toNat + 1))) := by
  have hk : s.txlen.toNat - s.txi.toNat = s.txlen.toNat - (s.txi.toNat + 1) + 1 := by omega
  have hlen : (byteSymbols (s.txByte s.txi.toNat)).length = 8 := rfl
  rw [State.remaining, hk, memReadTx_succ, dataSymbols_cons, List.drop_append_of_le_length (by omega)]

/-- The bit under the cursor comes first, then what the next place of the cursor sends. -/
theorem State.remaining_eq_cons {s : State} (h : s.txi.toNat < s.txlen.toNat) :
    s.remaining = symOfBit s.curBit :: (advanceCursor s).remaining := by
  have hcur : symOfBit s.curBit = symOfBit ((s.txByte s.txi.toNat).getLsbD s.biti.toNat) := rfl
  rw [State.remaining_of_lt h, byteSymbols_drop, List.cons_append, hcur]
  congr 1
  obtain ⟨hne, hadv⟩ | ⟨hz, hadv⟩ := advanceCursor_cases s <;> rw [hadv]
  · have hdec : 8 - s.biti.toNat = 7 - (s.biti - 1#3).toNat := by bv_omega
    rw [hdec]
    exact (State.remaining_of_lt (s := { s with biti := s.biti - 1#3 }) h).symm
  · have hinc : (s.txi + 1#16).toNat = s.txi.toNat + 1 := by bv_omega
    have hbyte : (byteSymbols (s.txByte s.txi.toNat)).drop (8 - s.biti.toNat) = [] := by rw [hz]; rfl
    rw [hbyte, State.remaining, hinc]
    rfl

theorem afterBit_remaining (s : State) : (afterBit s).remaining = (advanceCursor s).remaining := by
  obtain ⟨_, hs⟩ | ⟨_, hs⟩ := advanceCursor_cases s <;>
    obtain ⟨_, hb⟩ | ⟨_, hb⟩ := advanceCursor_cases (bitSent s)
  · rw [afterBit, hs, hb]; rfl
  · contradiction
  · contradiction
  · rw [afterBit, hs, hb]; rfl

theorem State.remaining_eq_nil {s : State} (h : s.txi = s.txlen) : s.remaining = [] := by
  simp [State.remaining, h, State.memReadTx]

/-! ### From the cursor's place to the end of the frame (R113 to R115) -/

/-- The frame is over: `ys` and the latch gap have been sent from `s` on, and the receiver takes up the frame. -/
def frameDone (ys : List Sym) (s : State) : State :=
  receiveFrame
    { s with
      mode := .idle
      dout := .l
      phase := .lo
      tmr := 0#16
      txi := s.txlen
      biti := 7#3
      wire := s.wire ++ (ys ++ [.reset])
      trace := (waveform (ys ++ [.reset])).reverse ++ s.trace
      lowCyc := Config.cycReset }

theorem frameDone_afterBit (ys : List Sym) (s : State) :
    frameDone ys (afterBit s) = frameDone (symOfBit s.curBit :: ys) s := by
  obtain ⟨_, h⟩ | ⟨_, h⟩ := advanceCursor_cases (bitSent s) <;> rw [afterBit, h] <;> simp [frameDone, bitSent]

/-- R113, R114: the cursor comes to the end of the data only from the last bit of a byte. -/
theorem advanceCursor_biti_of_end {s : State} (h : s.txi ≠ s.txlen) (he : (advanceCursor s).txi = s.txlen) :
    (advanceCursor s).biti = 7#3 := by
  obtain ⟨_, hadv⟩ | ⟨_, hadv⟩ := advanceCursor_cases s
  · rw [hadv] at he; exact absurd he h
  · rw [hadv]

/-- R113: a cursor inside the data stays inside or comes to its end. -/
theorem advanceCursor_txi_le {s : State} (h : s.txi.toNat < s.txlen.toNat) :
    (advanceCursor s).txi.toNat ≤ s.txlen.toNat := by
  obtain ⟨_, hadv⟩ | ⟨_, hadv⟩ := advanceCursor_cases s <;> rw [hadv]
  · exact h.le
  · change (s.txi + 1#16).toNat ≤ s.txlen.toNat
    bv_omega

/-- R114, R115: the latch gap lasts its cycles from the edge that ends the data, and the edge that ends it leaves the
frame done. -/
theorem clockEdges_latch {s : State} (hp : s.phase = .lo) (hd : s.dout = .l) (ht : s.txi = s.txlen)
    (hb : s.biti = 7#3) :
    clockEdges Config.cycReset (observe (beginLatch s)) = observe (frameDone [] s) := by
  have hend : endLatch (holdLine Config.cycReset (beginLatch s)) = frameDone [] s := by
    have hlow : min (s.lowCyc + Config.cycReset) Config.cycReset = Config.cycReset :=
      Nat.min_eq_right (Nat.le_add_left _ _)
    simp only [endLatch, frameDone, holdLine, beginLatch, hp, hd, ← ht, hb, hlow, if_true]
    simp [symLevels]
  rw [clockEdges_phase cycReset_pos rfl timerFor_cycReset, clockEdge_of_latchDone rfl rfl, hend]

/-- R113 to R115: from the first cycle of any bit, the rest of the frame takes the cycles of its waveform, and the
edge that ends it leaves the frame done. -/
theorem clockEdges_frame {ys : List Sym} {s : State} (hm : s.mode = .sending)
    (hlt : s.txi.toNat < s.txlen.toNat) (hys : s.remaining = ys) :
    clockEdges (waveform (ys ++ [.reset])).length (observe (driveHigh s)) = observe (frameDone ys s) := by
  induction ys generalizing s with
  | nil => simp [State.remaining_eq_cons hlt] at hys
  | cons y ys ih =>
    obtain ⟨rfl, hrest⟩ : symOfBit s.curBit = y ∧ (afterBit s).remaining = ys := by
      simpa [State.remaining_eq_cons hlt, afterBit_remaining] using hys
    rw [List.cons_append, waveform_cons, List.length_append, clockEdges_add, clockEdges_bit hm,
      ← frameDone_afterBit]
    by_cases hend : (afterBit s).txi = s.txlen
    · have hlast : (afterBit s).txi = (afterBit s).txlen := by rw [hend, afterBit_txlen]
      have hnil : ys = [] := by rw [← hrest, State.remaining_eq_nil hlast]
      have hbiti : (afterBit s).biti = 7#3 :=
        advanceCursor_biti_of_end (s := bitSent s) (fun h => hlt.ne (congrArg BitVec.toNat h)) hend
      have hgap : (waveform ([] ++ [Sym.reset])).length = Config.cycReset := by simp [symLevels]
      rw [if_pos hend, hnil, hgap]
      exact clockEdges_latch (afterBit_phase s) (afterBit_dout s) hlast hbiti
    · have hle : (afterBit s).txi.toNat ≤ s.txlen.toNat := advanceCursor_txi_le (s := bitSent s) hlt
      have hne : (afterBit s).txi.toNat ≠ s.txlen.toNat := fun h => hend (BitVec.eq_of_toNat_eq h)
      rw [if_neg hend]
      exact ih (by rw [afterBit_mode, hm]) (by rw [afterBit_txlen]; omega) hrest

/-! ### A whole transmission (R107, R110 to R115) -/

/-- The first bit's place: what `startTransmit` sets before it drives the line (R110). -/
def cursorAtStart (n : BitVec 16) (s : State) : State :=
  { s with
    txlen := n
    txi := 0#16
    biti := 7#3
    mode := .sending
    armed := decide (Config.cycReset ≤ s.lowCyc) }

theorem startTransmit_eq {n : BitVec 16} (hn : n ≠ 0#16) (s : State) :
    startTransmit n s = driveHigh (cursorAtStart n s) := if_neg hn

theorem cursorAtStart_remaining (n : BitVec 16) (s : State) :
    (cursorAtStart n s).remaining = dataSymbols (s.memReadTx 0 n.toNat) := rfl

theorem memReadTx_ne_nil {n : BitVec 16} (hn : n ≠ 0#16) (s : State) : s.memReadTx 0 n.toNat ≠ [] := by
  have hpos : n.toNat ≠ 0 := fun h => hn (BitVec.eq_of_toNat_eq h)
  simp [State.memReadTx, hpos]

/-- The receiver's update reads and writes nothing that `observe` writes. -/
theorem observe_receiveFrame (s : State) : observe (receiveFrame s) = receiveFrame (observe s) := by
  by_cases h : s.txlen = BitVec.ofNat 16 Config.fbLen ∧ s.armed = true
  · rw [receiveFrame, if_pos h, receiveFrame]; exact (if_pos h).symm
  · rw [receiveFrame, if_neg h, receiveFrame]; exact (if_neg h).symm

theorem receiveFrame_with_trace (s : State) (tr : List Level) :
    receiveFrame { s with trace := tr } = { receiveFrame s with trace := tr } := by
  unfold receiveFrame
  dsimp only
  split <;> rfl

/-- The clocked machine ends a transmission in the state `SD.transmit` gives as one step, the cycles recorded. -/
theorem observe_frameDone {n : BitVec 16} (hn : n ≠ 0#16) (s : State) :
    observe (frameDone (dataSymbols (s.memReadTx 0 n.toNat)) (cursorAtStart n s)) =
      { sdTransmit n s with
        trace := .l :: (waveform (transmitSymbols (s.memReadTx 0 n.toNat))).reverse ++ s.trace } := by
  rw [sdTransmit, if_neg hn, ← receiveFrame_with_trace, frameDone, observe_receiveFrame,
    transmitSymbols_of_ne_nil (memReadTx_ne_nil hn s)]
  rfl

/-- The two levels of R8 agree on a transmission: after its cycles the clocked machine holds what `SD.transmit` gives
as one step, with the waveform of its symbols recorded. -/
theorem clockEdges_transmission {n : BitVec 16} (hn : n ≠ 0#16) (s : State) :
    clockEdges (durationCycles (s.memReadTx 0 n.toNat)) (observe (startTransmit n s)) =
      { sdTransmit n s with
        trace := .l :: (waveform (transmitSymbols (s.memReadTx 0 n.toNat))).reverse ++ s.trace } := by
  have hne : s.memReadTx 0 n.toNat ≠ [] := memReadTx_ne_nil hn s
  have hpos : 0 < n.toNat := Nat.pos_of_ne_zero fun h => hn (BitVec.eq_of_toNat_eq h)
  rw [← waveform_transmitSymbols_length hne, transmitSymbols_of_ne_nil hne, startTransmit_eq hn,
    clockEdges_frame (s := cursorAtStart n s) rfl hpos (cursorAtStart_remaining n s), observe_frameDone hn,
    transmitSymbols_of_ne_nil hne]

/-! ### `SHOW` at a clock edge, and the edges after it (R23, R110, R148) -/

/-- With nothing offered, `k` steps are `k` clock edges (R230). -/
theorem run_clockEdges (k : Nat) {s : State} (h : s.stimuli = []) :
    Host.Core.run Sys2Proof.core k s = .next (clockEdges k s) := by
  induction k generalizing s with
  | zero => rfl
  | succ k ih =>
    have hs : step s = .next (clockEdge s) := by simp [step, h]
    rw [run_succ_of_next hs]
    exact ih (by rw [clockEdge_stimuli, h])

theorem exec_showFrame_of_idleReady {s : State} (h : s.idleReady) :
    exec .showFrame s = .next (sdTransmit frameLength (copyScaled s)) := by
  rw [exec, execShow, whenConstructed_of_idleReady h]

/-- R110 at the default `BUSY_CYC` (log entry 10): the edge that accepts `SHOW` makes the copy and drives the first
bit. -/
theorem step_of_showEdge {s : State} {w : CmdWord} {rest : List Stimulus} (h : s.idleReady)
    (hs : s.stimuli = .edge false true w :: rest) (hw : decodeWord w = .ok .showFrame) :
    step s = .next (observe (startTransmit frameLength (copyScaled { s with stimuli := rest }))) := by
  have hidle : State.idleReady { s with stimuli := rest } := h
  simp only [step, hs, portEdge, hidle.cmdReady, hw, acceptEdge, whenReady_of_ready, acceptNow,
    whenConstructed_of_idleReady hidle]
  rfl

end Sys2Proof.Machine

open Sys2Proof Sys2Proof.Machine

/-- Settles O44: the accepting edge starts the transmission of the scaled copy, and the clocked transmission ends in
the state of `SD.transmit`, which is the state of `SHOW`. -/
theorem clockedShowReachesTheAtomicShow : Obligations.ClockedShowReachesTheAtomicShow := by
  unfold Obligations.ClockedShowReachesTheAtomicShow
  intro s w hidle hs hw
  have hidle' : State.idleReady { s with stimuli := [] } := hidle
  refine ⟨_, exec_showFrame_of_idleReady hidle', ?_⟩
  have hread : (sdTransmit frameLength (copyScaled { s with stimuli := [] })).memReadTx 0 768 =
      (copyScaled { s with stimuli := [] }).memReadTx 0 frameLength.toNat := by
    simp [State.memReadTx, State.txByte, frameLength]
  rw [hread, Nat.add_comm, run_succ_of_next (step_of_showEdge hidle hs hw), run_clockEdges _ (by simp),
    clockEdges_transmission (by decide)]
  rfl

end

section
/-! PROOFS. What one step does to the block (R23, R50, R152), said once as a relation, and what every step keeps: the
invariants of R30, a driven line (R17), the frozen buffers of a transmission (R102) and an append-only `WIRE` (R25).
The tabulated states after reset (R27) and construction (R28) come last. -/

namespace Sys2Proof.Machine

/-! ### What an accepted command does (R140 to R148) -/

/-- The state each command leads to when it is accepted. -/
inductive CommandEffect (s : State) : Instr → State → Prop where
  | panelInit (pin : PinId) : CommandEffect s (.panelInit pin) (construct
      { s with pin := pin, dout := .l, lowCyc := if s.dout = .l ∧ s.pin = pin then s.lowCyc else 0 })
  | setBrightness (level : Byte) (hs : s.idleReady) :
      CommandEffect s (.setBrightness level) { s with bright := level }
  | clear (hs : s.idleReady) : CommandEffect s .clear { s with fb := Memory.fill 0#8 }
  | drawPixel (x y : Int) (r g b : Byte) (hs : s.idleReady) :
      CommandEffect s (.drawPixel x y r g b) { s with fb := plot s.fb x y r g b }
  | drawPixelPacked (x y : Int) (color : Packed) (hs : s.idleReady) :
      CommandEffect s (.drawPixelPacked x y color)
        { s with fb := plot s.fb x y (packedRed color) (packedGreen color) (packedBlue color) }
  | showFrame (hs : s.idleReady) : CommandEffect s .showFrame (sdTransmit frameLength (copyScaled s))

/-- R152: a guarded command that a ready block answers with a next state was accepted after construction. -/
theorem whenConstructed_next {mn : String} {s t : State} {f : State → Host.Outcome State Fault Refusal}
    (hr : s.cmdReady = true) (h : whenConstructed mn s f = .next t) : s.idleReady ∧ f s = .next t := by
  obtain ⟨hidle, he⟩ | ⟨_, _, he⟩ | ⟨hbusy, _⟩ := whenConstructed_cases mn s f
  · exact ⟨hidle, he ▸ h⟩
  · rw [he] at h; cases h
  · rw [hr] at hbusy; cases hbusy

theorem commandEffect_of_exec {i : Instr} {s t : State} (hr : s.cmdReady = true) (h : exec i s = .next t) :
    CommandEffect s i t := by
  cases i with
  | panelInit pin =>
    rw [exec, execPanelInit_of_ready hr] at h
    cases h
    exact .panelInit pin
  | setBrightness level =>
    rw [exec, execSetBrightness] at h
    obtain ⟨hidle, ⟨⟩⟩ := whenConstructed_next hr h
    exact .setBrightness level hidle
  | clear =>
    rw [exec, execClear] at h
    obtain ⟨hidle, ⟨⟩⟩ := whenConstructed_next hr h
    exact .clear hidle
  | drawPixel x y r g b =>
    rw [exec, execDrawPixel] at h
    obtain ⟨hidle, ⟨⟩⟩ := whenConstructed_next hr h
    exact .drawPixel x y r g b hidle
  | drawPixelPacked x y color =>
    rw [exec, execDrawPixelPacked] at h
    obtain ⟨hidle, ⟨⟩⟩ := whenConstructed_next hr h
    exact .drawPixelPacked x y color hidle
  | showFrame =>
    rw [exec, execShow] at h
    obtain ⟨hidle, ⟨⟩⟩ := whenConstructed_next hr h
    exact .showFrame hidle

theorem frameLength_ne_zero : frameLength ≠ 0#16 := by decide

@[simp] theorem sdTransmit_frameLength_mode (s : State) : (sdTransmit frameLength s).mode = .idle := by
  simp [sdTransmit, frameLength_ne_zero]

@[simp] theorem sdTransmit_frameLength_dout (s : State) : (sdTransmit frameLength s).dout = .l := by
  simp [sdTransmit, frameLength_ne_zero]

@[simp] theorem sdTransmit_frameLength_lowCyc (s : State) : (sdTransmit frameLength s).lowCyc = Config.cycReset := by
  simp [sdTransmit, frameLength_ne_zero]

@[simp] theorem sdTransmit_frameLength_leds_length (s : State) :
    (sdTransmit frameLength s).leds.length = Config.numLeds := by
  rw [sdTransmit, if_neg frameLength_ne_zero, receiveFrame_leds_length]

/-- No command starts a `BUSY_CYC` wait inside its meaning (log entry 10). -/
theorem CommandEffect.busy_eq {i : Instr} {s t : State} (h : CommandEffect s i t) : t.busy = s.busy := by
  cases h <;> simp

theorem CommandEffect.mode_eq_idle {i : Instr} {s t : State} (h : CommandEffect s i t) : t.mode = .idle := by
  cases h with
  | panelInit pin => rfl
  | setBrightness level hs => exact hs.1
  | clear hs => exact hs.1
  | drawPixel x y r g b hs => exact hs.1
  | drawPixelPacked x y color hs => exact hs.1
  | showFrame hs => exact sdTransmit_frameLength_mode _

/-! ### What a step does (R23) -/

/-- Everything a step but a reset can do, what the host writes or offers next apart. -/
inductive BlockMove (s : State) : State → Prop where
  | untouched : BlockMove s s
  | clockEdge : BlockMove s (clockEdge s)
  | command {i : Instr} {t : State} (hr : s.cmdReady = true) (he : CommandEffect s i t) : BlockMove s t
  | commandAtEdge {i : Instr} {t : State} (hr : s.cmdReady = true) (he : CommandEffect s i t) :
      BlockMove s (observe t)
  | showAtEdge (hs : s.idleReady) : BlockMove s (observe (startTransmit frameLength (copyScaled s)))

theorem blockMove_of_acceptEdge {i : Instr} {s t : State} (h : acceptEdge i s = .next t) : BlockMove s t := by
  obtain ⟨_, rfl⟩ | ⟨hr, _, u, hu, rfl⟩ | ⟨hidle, _, rfl⟩ := acceptEdge_next h
  · exact .clockEdge
  · have he := commandEffect_of_exec hr hu
    have hbusy : u.busy = 0 := he.busy_eq.trans (s.cmdReady_iff.mp hr).2
    have hwait : { u with busy := 0 } = u := by rw [← hbusy]
    rw [hwait]
    exact .commandAtEdge hr he
  · exact .showAtEdge hidle

/-- A step is a hardware reset or a move of the block, once the host's part of it is done: `IE_host` written, the
stimulus used up. -/
theorem step_next_reset_or_move {s t : State} (h : step s = .next t) :
    (¬ s.noReset ∧ ∃ rest, t = hardwareReset { s with stimuli := rest }) ∨
    ∃ ie rest, BlockMove { s with ieHost := ie, stimuli := rest } t := by
  obtain ⟨_, rfl⟩ | ⟨_, _, _, _, rfl⟩ | ⟨_, rest, _, _, hr, _, he⟩ | ⟨valid, w, rest, hs, rfl⟩ |
    ⟨_, _, rest, _, _, rfl⟩ | ⟨_, rest, _, _, _, _, he⟩ | ⟨b, rest, _, rfl⟩ := step_next h
  · exact .inr ⟨s.ieHost, s.stimuli, .clockEdge⟩
  · exact .inr ⟨s.ieHost, s.stimuli, .clockEdge⟩
  · exact .inr ⟨s.ieHost, rest, .command hr (commandEffect_of_exec hr he)⟩
  · exact .inl ⟨fun hn => hn valid w rest hs, rest, rfl⟩
  · exact .inr ⟨s.ieHost, rest, .clockEdge⟩
  · exact .inr ⟨s.ieHost, rest, blockMove_of_acceptEdge he⟩
  · exact .inr ⟨b, rest, .untouched⟩

theorem blockMove_of_step {s t : State} (hn : s.noReset) (h : step s = .next t) :
    ∃ ie rest, BlockMove { s with ieHost := ie, stimuli := rest } t := by
  obtain ⟨hreset, _⟩ | hmove := step_next_reset_or_move h
  · exact absurd hn hreset
  · exact hmove

/-- R152: while a transmission runs the block does nothing but go on. -/
theorem BlockMove.of_transmitting {s t : State} (h : BlockMove s t) (hm : s.mode.transmitting = true) :
    t = s ∨ t = Sys2Proof.Machine.clockEdge s := by
  have hbusy := s.not_cmdReady_of_transmitting hm
  cases h with
  | untouched => exact .inl rfl
  | clockEdge => exact .inr rfl
  | command hr he => rw [hr] at hbusy; cases hbusy
  | commandAtEdge hr he => rw [hr] at hbusy; cases hbusy
  | showAtEdge hs => rw [hs.cmdReady] at hbusy; cases hbusy

/-! ### The invariants, mode by mode (R30) -/

/-- The invariants of a constructed block that do not speak of its line. -/
structure State.Stored (s : State) : Prop where
  fb_wf : s.fb.wf = true
  txbuf_wf : s.txbuf.wf = true
  fb_full : s.fb.full = true
  leds_length : s.leds.length = Config.numLeds
  lowCyc_le : s.lowCyc ≤ Config.cycReset

/-- What holds throughout a transmission, wherever its cursor and its line are. -/
structure State.InFrame (s : State) : Prop extends s.Stored where
  txbuf_full : s.txbuf.full = true
  length : s.txlen = frameLength
  busy_zero : s.busy = 0
  not_pending : s.showPending = false

theorem State.Inv.stored {s : State} (h : s.Inv) (hm : s.mode ≠ .unbound) : s.Stored :=
  { h with fb_full := h.fb_full hm }

theorem State.Inv.not_pending {s : State} (h : s.Inv) (hb : s.busy = 0) : s.showPending = false := by
  cases hp : s.showPending with
  | false => rfl
  | true => exact absurd hb (h.pending hp).2.ne'

theorem State.Inv.inFrame {s : State} (h : s.Inv) (hm : s.mode.transmitting = true) : s.InFrame where
  toStored := h.stored (by rintro hu; simp [hu] at hm)
  txbuf_full := h.txbuf_full (.inl hm)
  length := h.length hm
  busy_zero := h.busy_zero hm
  not_pending := h.not_pending (h.busy_zero hm)

/-- R17, R30 (b), (e): outside a high phase a constructed block drives the line low. -/
theorem State.Inv.dout_low {s : State} (h : s.Inv) (hm : s.mode ≠ .unbound)
    (hp : ¬ (s.mode = .sending ∧ s.phase = .hi)) :
    s.dout = .l := by
  cases hd : s.dout with
  | z => exact absurd (h.unbound_iff.mpr hd) hm
  | l => rfl
  | h => exact absurd (h.high_only hd) hp

theorem State.Stored.inv_of_idle {s : State} (h : s.Stored) (hm : s.mode = .idle) (hd : s.dout = .l)
    (hp : s.showPending = false) : s.Inv where
  fb_wf := h.fb_wf
  txbuf_wf := h.txbuf_wf
  fb_full := fun _ => h.fb_full
  txbuf_full := by simp [hm, hp]
  unbound_iff := by simp [hm, hd]
  idle_low := fun _ => hd
  latch_low := fun _ => hd
  high_only := by simp [hd]
  high_phase := by simp [hm]
  cursor := by simp [hm]
  length := by simp [hm]
  high_timer := by simp [hm]
  low_timer := by simp [hm]
  latch_timer := by simp [hm]
  busy_zero := by simp [hm]
  pending := by simp [hp]
  leds_length := h.leds_length
  lowCyc_le := h.lowCyc_le

/-- R30 (e), R112, R122: the phase says where the line is and how long it may stay there. -/
theorem State.InFrame.inv_of_sending {s : State} (h : s.InFrame) (hm : s.mode = .sending) (hc : s.txi < s.txlen)
    (hhi : s.phase = .hi → s.dout = .h ∧ s.tmr.toNat < cycHigh s.curBit)
    (hlo : s.phase = .lo → s.dout = .l ∧ s.tmr.toNat < cycLow s.curBit) : s.Inv where
  fb_wf := h.fb_wf
  txbuf_wf := h.txbuf_wf
  fb_full := fun _ => h.fb_full
  txbuf_full := fun _ => h.txbuf_full
  unbound_iff := by
    cases hp : s.phase with
    | hi => simp [hm, (hhi hp).1]
    | lo => simp [hm, (hlo hp).1]
  idle_low := by simp [hm]
  latch_low := by simp [hm]
  high_only := fun hd => by
    cases hp : s.phase with
    | hi => exact ⟨hm, rfl⟩
    | lo => rw [(hlo hp).1] at hd; cases hd
  high_phase := fun _ hp => (hhi hp).1
  cursor := fun _ => hc
  length := fun _ => h.length
  high_timer := fun _ hp => (hhi hp).2
  low_timer := fun _ hp => (hlo hp).2
  latch_timer := by simp [hm]
  busy_zero := fun _ => h.busy_zero
  pending := by simp [h.not_pending]
  leds_length := h.leds_length
  lowCyc_le := h.lowCyc_le

theorem timerFor_cycHigh_lt (v : Bool) : (timerFor (cycHigh v)).toNat < cycHigh v := by
  rw [timerFor_cycHigh]
  exact Nat.sub_one_lt (cycHigh_pos v).ne'

theorem timerFor_cycLow_lt (v : Bool) : (timerFor (cycLow v)).toNat < cycLow v := by
  rw [timerFor_cycLow]
  exact Nat.sub_one_lt (cycLow_pos v).ne'

theorem State.InFrame.inv_driveHigh {s : State} (h : s.InFrame) (hm : s.mode = .sending) (hc : s.txi < s.txlen) :
    (driveHigh s).Inv :=
  State.InFrame.inv_of_sending { h with } hm hc (fun _ => ⟨rfl, timerFor_cycHigh_lt s.curBit⟩) (by simp)

theorem State.InFrame.inv_highToLow {s : State} (h : s.InFrame) (hm : s.mode = .sending) (hc : s.txi < s.txlen) :
    (highToLow s).Inv :=
  State.InFrame.inv_of_sending { h with } hm hc (by simp) (fun _ => ⟨rfl, timerFor_cycLow_lt s.curBit⟩)

theorem State.InFrame.inv_beginLatch {s : State} (h : s.InFrame) (hd : s.dout = .l) : (beginLatch s).Inv where
  fb_wf := h.fb_wf
  txbuf_wf := h.txbuf_wf
  fb_full := fun _ => h.fb_full
  txbuf_full := fun _ => h.txbuf_full
  unbound_iff := by simp [hd]
  idle_low := by simp
  latch_low := fun _ => hd
  high_only := by simp [hd]
  high_phase := by simp
  cursor := by simp
  length := fun _ => h.length
  high_timer := by simp
  low_timer := by simp
  latch_timer := fun _ => by
    rw [beginLatch_tmr, timerFor_cycReset]
    exact Nat.sub_one_lt cycReset_pos.ne'
  busy_zero := fun _ => h.busy_zero
  pending := by simp [h.not_pending]
  leds_length := h.leds_length
  lowCyc_le := h.lowCyc_le

/-! ### Hardware reset has the invariants (R27) -/

theorem afterReset_inv (k : Nat) (ie : Bool) (stimuli : List Stimulus) : (State.afterReset k ie stimuli).Inv where
  fb_wf := rfl
  txbuf_wf := rfl
  fb_full := fun h => absurd rfl h
  txbuf_full := by simp [State.afterReset]
  unbound_iff := ⟨fun _ => rfl, fun _ => rfl⟩
  idle_low := by simp [State.afterReset]
  latch_low := by simp [State.afterReset]
  high_only := by simp [State.afterReset]
  high_phase := by simp [State.afterReset]
  cursor := by simp [State.afterReset]
  length := by simp [State.afterReset]
  high_timer := by simp [State.afterReset]
  low_timer := by simp [State.afterReset]
  latch_timer := by simp [State.afterReset]
  busy_zero := fun _ => rfl
  pending := by simp [State.afterReset]
  leds_length := by simp [State.afterReset, freeLeds]
  lowCyc_le := Nat.zero_le _

/-! ### A clock edge keeps the invariants (R110 to R115) -/

theorem State.Inv.observe {s : State} (h : s.Inv) : (observe s).Inv :=
  { h with
    lowCyc_le := by
      unfold Sys2Proof.Machine.observe
      dsimp only
      split
      · exact Nat.min_le_right _ _
      · exact Nat.zero_le _ }

/-- R110: a transmission of the block starts in its first high phase. -/
theorem State.Stored.inv_startTransmit {s : State} (h : s.Stored) (hfull : s.txbuf.full = true) (hb : s.busy = 0)
    (hp : s.showPending = false) : (startTransmit frameLength s).Inv := by
  have hframe : (cursorAtStart frameLength s).InFrame :=
    { h with txbuf_full := hfull, length := rfl, busy_zero := hb, not_pending := hp }
  rw [startTransmit_eq frameLength_ne_zero]
  have hlt : 0#16 < frameLength := by decide
  exact hframe.inv_driveHigh rfl hlt

theorem State.Inv.waitBusy {s : State} (h : s.Inv) : (waitBusy s).Inv := by
  obtain ⟨_, he⟩ | ⟨_, hp, he⟩ | ⟨hb, hne, he⟩ := waitBusy_cases s <;> rw [he]
  · exact h
  · have hstored := h.stored (by rw [(h.pending hp).1]; decide)
    exact State.Stored.inv_startTransmit (s := { s with busy := 0, showPending := false }) { hstored with }
      (h.txbuf_full (.inr hp)) rfl rfl
  · exact
      { h with
        busy_zero := fun hm => absurd (h.busy_zero hm) hb
        pending := fun hp => ⟨(h.pending hp).1, by
          have hne1 : s.busy ≠ 1 := fun h1 => hne ⟨h1, hp⟩
          dsimp only
          omega⟩ }

/-- R21, R111. -/
theorem State.Inv.countDown {s : State} (h : s.Inv) (ht : s.tmr ≠ 0#16) :
    State.Inv { s with tmr := s.tmr - 1#16 } := by
  have hlt : (s.tmr - 1#16).toNat < s.tmr.toNat := by bv_omega
  exact
    { h with
      high_timer := fun hm hp => hlt.trans (h.high_timer hm hp)
      low_timer := fun hm hp => hlt.trans (h.low_timer hm hp)
      latch_timer := fun hm => hlt.trans (h.latch_timer hm) }

theorem State.InFrame.advanceCursor {s : State} (h : s.InFrame) : (advanceCursor s).InFrame := by
  obtain ⟨_, he⟩ | ⟨_, he⟩ := advanceCursor_cases s <;> rw [he] <;> exact { h with }

/-- R113, R114: a cursor that is not at the end of the data after a bit is inside it. -/
theorem State.Inv.nextBit {s : State} (h : s.Inv) (hm : s.mode = .sending) (hp : s.phase = .lo) : (nextBit s).Inv := by
  have hframe := h.inFrame (by rw [hm]; rfl)
  have hmoved : (advanceCursor { s with wire := s.wire ++ [symOfBit s.curBit] }).InFrame :=
    State.InFrame.advanceCursor { hframe with }
  unfold Sys2Proof.Machine.nextBit
  dsimp only
  split
  · have hlow : s.dout = .l := h.dout_low (by simp [hm]) (by simp [hp])
    exact hmoved.inv_beginLatch (by simpa using hlow)
  · next hend =>
    have hle := advanceCursor_txi_le (s := { s with wire := s.wire ++ [symOfBit s.curBit] }) (h.cursor hm)
    refine hmoved.inv_driveHigh (by simpa using hm) ?_
    rw [BitVec.lt_def]
    refine lt_of_le_of_ne ?_ fun heq => hend (BitVec.eq_of_toNat_eq heq)
    simpa using hle

/-- R115. -/
theorem State.Inv.endLatch {s : State} (h : s.Inv) (hm : s.mode = .latch) : (endLatch s).Inv := by
  have hframe := h.inFrame (by rw [hm]; rfl)
  refine State.Stored.inv_of_idle ?_ (by simp) (by simpa using h.latch_low hm) (by simpa using hframe.not_pending)
  exact
    { fb_wf := by simpa using h.fb_wf
      txbuf_wf := by simpa using h.txbuf_wf
      fb_full := by simpa using hframe.fb_full
      leds_length := receiveFrame_leds_length _
      lowCyc_le := by simpa using h.lowCyc_le }

theorem State.Inv.advance {s : State} (h : s.Inv) : (advance s).Inv := by
  obtain ⟨_, he⟩ | ⟨_, ht, he⟩ | ⟨hm, _, _, he⟩ | ⟨hm, _, hp, he⟩ | ⟨hm, _, he⟩ := advance_cases s <;> rw [he]
  · exact h.waitBusy
  · exact h.countDown ht
  · exact (h.inFrame (by rw [hm]; rfl)).inv_highToLow hm (h.cursor hm)
  · exact h.nextBit hm hp
  · exact h.endLatch hm

/-! ### A step keeps the invariants -/

theorem State.Stored.copyScaled {s : State} (h : s.Stored) : (copyScaled s).Stored :=
  { h with txbuf_wf := Memory.ofFn_wf _ }

theorem State.Stored.sdTransmit {s : State} (h : s.Stored) : (sdTransmit frameLength s).Stored where
  fb_wf := by simpa using h.fb_wf
  txbuf_wf := by simpa using h.txbuf_wf
  fb_full := by simpa using h.fb_full
  leds_length := sdTransmit_frameLength_leds_length s
  lowCyc_le := (sdTransmit_frameLength_lowCyc s).le

theorem CommandEffect.inv {i : Instr} {s t : State} (h : CommandEffect s i t) (hs : s.Inv) (hr : s.cmdReady = true) :
    t.Inv := by
  have hp : s.showPending = false := hs.not_pending (s.cmdReady_iff.mp hr).2
  cases h with
  | panelInit pin =>
    have hstored : (construct { s with
        pin := pin, dout := .l, lowCyc := if s.dout = .l ∧ s.pin = pin then s.lowCyc else 0 }).Stored :=
      { hs with
        fb_wf := Memory.fill_wf _
        fb_full := Memory.fill_full _
        lowCyc_le := by
          rw [construct_lowCyc]
          dsimp only
          split
          · exact hs.lowCyc_le
          · exact Nat.zero_le _ }
    exact hstored.inv_of_idle rfl rfl hp
  | setBrightness level _ => exact { hs with }
  | clear _ => exact { hs with fb_wf := Memory.fill_wf _, fb_full := fun _ => Memory.fill_full _ }
  | drawPixel x y r g b _ =>
    exact { hs with
      fb_wf := plot_keeps_wf hs.fb_wf x y r g b
      fb_full := fun hm => plot_keeps_full (hs.fb_full hm) x y r g b }
  | drawPixelPacked x y color _ =>
    exact { hs with
      fb_wf := plot_keeps_wf hs.fb_wf x y _ _ _
      fb_full := fun hm => plot_keeps_full (hs.fb_full hm) x y _ _ _ }
  | showFrame hidle =>
    have hstored := hs.stored (by rw [hidle.1]; decide)
    exact hstored.copyScaled.sdTransmit.inv_of_idle (by simp) (by simp) (by simpa using hp)

theorem BlockMove.inv {s t : State} (h : BlockMove s t) (hs : s.Inv) : t.Inv := by
  cases h with
  | untouched => exact hs
  | clockEdge => exact hs.advance.observe
  | command hr he => exact he.inv hs hr
  | commandAtEdge hr he => exact (he.inv hs hr).observe
  | showAtEdge hidle =>
    have hstored := hs.stored (by rw [hidle.1]; decide)
    exact (hstored.copyScaled.inv_startTransmit (Memory.ofFn_full _) hidle.2 (hs.not_pending hidle.2)).observe

theorem step_keeps_inv {s t : State} (hs : s.Inv) (h : step s = .next t) : t.Inv := by
  obtain ⟨_, rest, rfl⟩ | ⟨ie, rest, hmove⟩ := step_next_reset_or_move h
  · exact afterReset_inv _ _ _
  · exact hmove.inv { hs with }

/-! ### A constructed block stays constructed (R17) -/

theorem waitBusy_mode (s : State) : (waitBusy s).mode = s.mode ∨ (waitBusy s).mode = .sending := by
  obtain ⟨_, he⟩ | ⟨_, _, he⟩ | ⟨_, _, he⟩ := waitBusy_cases s <;> rw [he]
  · exact .inl rfl
  · exact .inr rfl
  · exact .inl rfl

theorem nextBit_mode (s : State) : (nextBit s).mode = s.mode ∨ (nextBit s).mode = .latch := by
  unfold nextBit
  dsimp only
  split
  · exact .inr rfl
  · exact .inl (by simp)

theorem advance_constructed {s : State} (hm : s.mode ≠ .unbound) : (advance s).mode ≠ .unbound := by
  obtain ⟨_, he⟩ | ⟨_, _, he⟩ | ⟨_, _, _, he⟩ | ⟨_, _, _, he⟩ | ⟨_, _, he⟩ := advance_cases s <;> rw [he]
  · obtain hw | hw := waitBusy_mode s <;> rw [hw]
    · exact hm
    · decide
  · exact hm
  · exact hm
  · obtain hb | hb := nextBit_mode s <;> rw [hb]
    · exact hm
    · decide
  · simp

theorem BlockMove.constructed {s t : State} (h : BlockMove s t) (hm : s.mode ≠ .unbound) : t.mode ≠ .unbound := by
  cases h with
  | untouched => exact hm
  | clockEdge => exact advance_constructed hm
  | command hr he => rw [he.mode_eq_idle]; decide
  | commandAtEdge hr he => rw [observe_mode, he.mode_eq_idle]; decide
  | showAtEdge hidle => simp [startTransmit_eq frameLength_ne_zero, cursorAtStart]

theorem step_keeps_constructed {s t : State} (hm : s.mode ≠ .unbound) (hn : s.noReset) (h : step s = .next t) :
    t.mode ≠ .unbound := by
  obtain ⟨ie, rest, hmove⟩ := blockMove_of_step hn h
  exact hmove.constructed hm

/-! ### `WIRE` only grows (R25) -/

/-- Both histories of `t` go on from those of `s`; the recorded cycles are kept newest first. -/
def State.HistoriesGoOn (s t : State) : Prop := s.wire <+: t.wire ∧ s.trace <:+ t.trace

theorem State.HistoriesGoOn.refl (s : State) : s.HistoriesGoOn s := ⟨by simp, by simp⟩

theorem State.HistoriesGoOn.observe {s t : State} (h : s.HistoriesGoOn t) : s.HistoriesGoOn (observe t) :=
  ⟨h.1, h.2.trans (List.suffix_cons _ _)⟩

theorem advance_wire_goesOn (s : State) : s.wire <+: (advance s).wire := by
  obtain ⟨_, he⟩ | ⟨_, _, he⟩ | ⟨_, _, _, he⟩ | ⟨_, _, _, he⟩ | ⟨_, _, he⟩ := advance_cases s <;> rw [he] <;> simp

theorem sdTransmit_wire_goesOn (n : BitVec 16) (s : State) : s.wire <+: (sdTransmit n s).wire := by
  unfold sdTransmit
  split <;> simp

theorem CommandEffect.historiesGoOn {i : Instr} {s t : State} (h : CommandEffect s i t) : s.HistoriesGoOn t := by
  cases h with
  | showFrame _ => exact ⟨sdTransmit_wire_goesOn _ (copyScaled s), by simp⟩
  | _ => exact ⟨by simp, by simp⟩

theorem BlockMove.historiesGoOn {s t : State} (h : BlockMove s t) : s.HistoriesGoOn t := by
  cases h with
  | untouched => exact .refl s
  | clockEdge =>
    have hadv : s.HistoriesGoOn (advance s) := ⟨advance_wire_goesOn s, by simp⟩
    exact hadv.observe
  | command _ he => exact he.historiesGoOn
  | commandAtEdge _ he => exact he.historiesGoOn.observe
  | showAtEdge _ =>
    have hstart : s.HistoriesGoOn (startTransmit frameLength (copyScaled s)) := ⟨by simp, by simp⟩
    exact hstart.observe

/-! ### The accepting edge of the five short commands (R153) -/

/-- At the default `BUSY_CYC` (log entry 10). -/
theorem acceptNow_of_ne_showFrame {i : Instr} (hi : i ≠ .showFrame) (s : State) :
    acceptNow i s = completeAtEdge 0 (exec i s) := by
  cases i with
  | showFrame => exact absurd rfl hi
  | _ => rfl

/-! ### The LEDs after `SHOW` (R26, R148) -/

theorem copyScaled_txByte (s : State) {a : Nat} (ha : a < 768) :
    (copyScaled s).txByte a = scale (s.fbByte a) s.bright := by
  simp [State.txByte, ha]

/-- R26 under the premise of decision D20: the receiver shows the frame just sent. -/
theorem sdTransmit_leds {s : State} (h : Config.cycReset ≤ s.lowCyc) :
    (sdTransmit frameLength s).leds = ledsOfTxbuf s := by
  rw [sdTransmit, if_neg frameLength_ne_zero, receiveFrame, if_pos ⟨rfl, decide_eq_true h⟩]
  rfl

theorem ledsOfTxbuf_copyScaled (s : State) {p : Nat} (hp : p < 256) :
    (ledsOfTxbuf (copyScaled s))[p]? = some
      { red := scale (s.fbByte (3 * p + 1)) s.bright, green := scale (s.fbByte (3 * p)) s.bright,
        blue := scale (s.fbByte (3 * p + 2)) s.bright } := by
  rw [ledsOfTxbuf, List.getElem?_map, List.getElem?_range hp, Option.map_some, copyScaled_txByte s (by omega),
    copyScaled_txByte s (by omega), copyScaled_txByte s (by omega)]

/-! ### A reset edge (R27, R230) -/

theorem step_of_resetEdge {s : State} {valid : Bool} {w : CmdWord} {rest : List Stimulus}
    (hs : s.stimuli = .edge true valid w :: rest) : step s = .next (hardwareReset { s with stimuli := rest }) := by
  simp [step, hs, portEdge]

end Sys2Proof.Machine

open Sys2Proof Sys2Proof.Machine

/-- Settles O51: a step is a reset, which has the invariants afresh, or a move of the block, and each move keeps
them. -/
theorem stepKeepsInv : Obligations.StepKeepsInv := fun _ _ hs h => step_keeps_inv hs h

/-- Settles O8: the accepting edge completes the command's meaning and starts no wait. -/
theorem edgeCompletesEveryCommandButShow : Obligations.EdgeCompletesEveryCommandButShow := by
  unfold Obligations.EdgeCompletesEveryCommandButShow
  intro s t w rest i hs hr hw hi he
  have hr' : State.cmdReady { s with stimuli := rest } = true := hr
  have hbusy : t.busy = 0 := (commandEffect_of_exec hr' he).busy_eq.trans (State.cmdReady_iff _ |>.mp hr').2
  have hwait : { t with busy := 0 } = t := by rw [← hbusy]
  simp only [step, hs, portEdge, hr', hw, acceptEdge, whenReady_of_ready, acceptNow_of_ne_showFrame hi, he,
    completeAtEdge, hwait, Bool.and_self, Bool.false_eq_true, if_true, if_false]

/-- Settles O18: the invariants after the step say where the line is, and a constructed block is never unbound but by
reset. -/
theorem lineStaysDrivenUntilReset : Obligations.LineStaysDrivenUntilReset := by
  unfold Obligations.LineStaysDrivenUntilReset
  intro s t hs hn h
  have ht : t.Inv := step_keeps_inv hs h
  refine ⟨fun hm => ?_, ht.unbound_iff.mp, ?_, ht.high_only⟩
  · have hmode := step_keeps_constructed hm hn h
    exact ⟨hmode, fun hz => hmode (ht.unbound_iff.mpr hz)⟩
  · rintro (hm | hm)
    · exact ht.idle_low hm
    · exact ht.latch_low hm

/-- Settles O33: after the low time of decision D20 the LEDs are those of `TXBUF`, which is the scaled copy. -/
theorem showLightsTheLeds : Obligations.ShowLightsTheLeds := by
  unfold Obligations.ShowLightsTheLeds
  intro s hidle hlow
  refine ⟨_, exec_showFrame_of_idleReady hidle, sdTransmit_frameLength_leds_length _, fun p hp => ?_⟩
  rw [sdTransmit_leds (s := copyScaled s) hlow]
  exact ledsOfTxbuf_copyScaled s hp

/-- Settles O52: during a transmission a step is a clock edge or nothing to the block, and no clock edge writes these
four. -/
theorem framebufferIsFrozenDuringFrame : Obligations.FramebufferIsFrozenDuringFrame := by
  unfold Obligations.FramebufferIsFrozenDuringFrame
  intro s t hm hn h
  obtain ⟨ie, rest, hmove⟩ := blockMove_of_step hn h
  obtain rfl | rfl := hmove.of_transmitting hm
  · exact ⟨rfl, rfl, rfl, rfl⟩
  · simp

/-- Settles O53: every move of the block goes on from both histories. -/
theorem wireOnlyGrows : Obligations.WireOnlyGrows := by
  unfold Obligations.WireOnlyGrows
  intro s t hn h
  obtain ⟨ie, rest, hmove⟩ := blockMove_of_step hn h
  obtain ⟨⟨ys, hwire⟩, ⟨cs, htrace⟩⟩ := hmove.historiesGoOn
  refine ⟨⟨ys, hwire.symm⟩, cs.reverse, ?_⟩
  rw [State.cycleTrace, ← htrace, List.reverse_append]
  rfl

/-- Settles O60: the selected pad is the line, which the invariants place; another pad is a free value. -/
theorem selectedPadCarriesTheLine : Obligations.SelectedPadCarriesTheLine := by
  unfold Obligations.SelectedPadCarriesTheLine
  refine ⟨fun s t hs hn hm h => ?_, fun s pin hr => ⟨_, execPanelInit_of_ready hr pin, rfl, State.pad_pin _⟩⟩
  have ht : t.Inv := step_keeps_inv hs h
  have hhigh : t.dout = .h ↔ t.mode = .sending ∧ t.phase = .hi := ⟨ht.high_only, fun hp => ht.high_phase hp.1 hp.2⟩
  have hlow : t.dout = .l ↔ ¬ (t.mode = .sending ∧ t.phase = .hi) :=
    ⟨fun hl hp => absurd (hl.symm.trans (hhigh.mpr hp)) (by decide), ht.dout_low (step_keeps_constructed hm hn h)⟩
  rw [State.pad_pin]
  exact ⟨rfl, hhigh, hlow, fun q hq => ⟨_, _, State.pad_of_ne hq⟩⟩

/-- Settles O16. -/
theorem resetStateIsAsTabulated : Obligations.ResetStateIsAsTabulated := ⟨rfl, rfl, rfl, rfl, rfl, rfl⟩

/-- Settles O17: the free values are those of the draw after the last one made. -/
theorem resetLeavesFreshFreeValues : Obligations.ResetLeavesFreshFreeValues := by
  unfold Obligations.ResetLeavesFreshFreeValues
  intro s valid w rest hs
  exact ⟨_, step_of_resetEdge hs, Nat.lt_succ_self s.draws, fun _ => ⟨rfl, rfl⟩, fun _ => ⟨rfl, rfl⟩, rfl, rfl, rfl,
    rfl, rfl, rfl, rfl, rfl⟩

/-- Settles O19: the pin is bound and the line driven (R100), and `construct` does the rest, from either mode. -/
theorem panelInitConstructs : Obligations.PanelInitConstructs := by
  unfold Obligations.PanelInitConstructs
  intro s pin hr
  have hbusy : s.busy = 0 := (s.cmdReady_iff.mp hr).2
  exact ⟨_, execPanelInit_of_ready hr pin, rfl, Memory.read_fill 0#8, rfl,
    (State.cmdReady_iff _).mpr ⟨.inr rfl, hbusy⟩⟩

/-- Settles O50: a reset state has the invariants whatever its draw. -/
theorem invHoldsAtReset : Obligations.InvHoldsAtReset := afterReset_inv 0 Config.hostIe []

end

section
/-! PROOFS. The commands as a program over the memory (20_memory.md): the decoder reads each canonical word back (R70,
R83), so an issued program runs as its commands one after another (R50); a repeated write is the last one (R49, R54);
only `SHOW` reaches the line (R51), with bytes most significant bit first (R43). -/

namespace Sys2Proof

/-! ### A field put in its place in a wider word (R71) -/

theorem extractLsb'_field_same {w m k : Nat} (v : BitVec w) (h : k + w ≤ m) :
    (v.setWidth m <<< k).extractLsb' k w = v := by
  ext j hj
  simp [hj, show k + j < m by omega]

theorem extractLsb'_field_below {w m k : Nat} (v : BitVec w) {i n : Nat} (h : i + n ≤ k) :
    (v.setWidth m <<< k).extractLsb' i n = 0#n := by
  ext j hj
  simp [show i + j < k by omega]

theorem extractLsb'_field_above {w m k : Nat} (v : BitVec w) {i n : Nat} (h : k + w ≤ i) :
    (v.setWidth m <<< k).extractLsb' i n = 0#n := by
  ext j hj
  simp [BitVec.getLsbD_of_ge v (i + j - k) (by omega)]

theorem extractLsb'_setWidth_above {w m : Nat} (v : BitVec w) {i n : Nat} (h : w ≤ i) :
    (v.setWidth m).extractLsb' i n = 0#n := by
  ext j hj
  simp [BitVec.getLsbD_of_ge v (i + j) (by omega)]

/-! ### The fields of a packed word (R71, R75, R77) -/

theorem extractLsb'_packWord_x (op : BitVec 4) (x y : BitVec 16) (low : Packed) :
    (packWord op x y low).extractLsb' 40 16 = x := by
  simp only [packWord, BitVec.extractLsb'_or, extractLsb'_field_below op (by decide : 40 + 16 ≤ 60),
    extractLsb'_field_same x (by decide : 40 + 16 ≤ 64), extractLsb'_field_above y (by decide : 24 + 16 ≤ 40),
    extractLsb'_setWidth_above low (by decide : 24 ≤ 40), BitVec.or_zero, BitVec.zero_or]

theorem extractLsb'_packWord_y (op : BitVec 4) (x y : BitVec 16) (low : Packed) :
    (packWord op x y low).extractLsb' 24 16 = y := by
  simp only [packWord, BitVec.extractLsb'_or, extractLsb'_field_below op (by decide : 24 + 16 ≤ 60),
    extractLsb'_field_below x (by decide : 24 + 16 ≤ 40), extractLsb'_field_same y (by decide : 24 + 16 ≤ 64),
    extractLsb'_setWidth_above low (by decide : 24 ≤ 24), BitVec.or_zero, BitVec.zero_or]

theorem extractLsb'_packWord_low (op : BitVec 4) (x y : BitVec 16) (low : Packed) {k n : Nat} (h : k + n ≤ 24) :
    (packWord op x y low).extractLsb' k n = low.extractLsb' k n := by
  simp only [packWord, BitVec.extractLsb'_or, extractLsb'_field_below op (by omega : k + n ≤ 60),
    extractLsb'_field_below x (by omega : k + n ≤ 40), extractLsb'_field_below y h,
    BitVec.extractLsb'_setWidth_of_le (by omega : k + n ≤ 64), BitVec.zero_or]

theorem extractLsb'_packChannels_red (r g b : Byte) : (packChannels r g b).extractLsb' 16 8 = r := by
  simp only [packChannels, BitVec.extractLsb'_or, extractLsb'_field_same r (by decide : 16 + 8 ≤ 24),
    extractLsb'_field_above g (by decide : 8 + 8 ≤ 16), extractLsb'_setWidth_above b (by decide : 8 ≤ 16),
    BitVec.or_zero]

theorem extractLsb'_packChannels_green (r g b : Byte) : (packChannels r g b).extractLsb' 8 8 = g := by
  simp only [packChannels, BitVec.extractLsb'_or, extractLsb'_field_below r (by decide : 8 + 8 ≤ 16),
    extractLsb'_field_same g (by decide : 8 + 8 ≤ 24), extractLsb'_setWidth_above b (by decide : 8 ≤ 8),
    BitVec.or_zero, BitVec.zero_or]

theorem extractLsb'_packChannels_blue (r g b : Byte) : (packChannels r g b).extractLsb' 0 8 = b := by
  simp only [packChannels, BitVec.extractLsb'_or, extractLsb'_field_below r (by decide : 0 + 8 ≤ 16),
    extractLsb'_field_below g (by decide : 0 + 8 ≤ 8), BitVec.extractLsb'_setWidth_of_le (by decide : 0 + 8 ≤ 24),
    BitVec.extractLsb'_eq_self, BitVec.zero_or]

/-- A coordinate in range is what its two's-complement field denotes (R71, R81). -/
theorem toInt_ofInt_of_fitsI16 {v : Int} (h : fitsI16 v = true) : (BitVec.ofInt 16 v).toInt = v := by
  simp only [fitsI16, Bool.and_eq_true, decide_eq_true_eq] at h
  exact BitVec.toInt_ofInt_eq_self (by decide) (by omega) (by omega)

theorem opcodeField_encode (i : Instr) : opcodeField (encode i) = i.opcode := by
  cases i <;> exact Laws.opcodeField_packWord _ _ _ _

/-- R83, R77: the decoder gives back every command that can be encoded. -/
theorem decodeWord_encode {i : Instr} (h : i.wf = true) : decodeWord (encode i) = .ok i := by
  rw [decodeWord, opcodeField_encode]
  cases i with
  | panelInit pin =>
    have hpin : pinField (encode (.panelInit pin)) = pin := by
      rw [pinField, encode, extractLsb'_packWord_low _ _ _ _ (by decide),
        BitVec.extractLsb'_setWidth_of_le (by decide), BitVec.extractLsb'_eq_self]
    simp [Instr.opcode, hpin]
  | setBrightness level =>
    have hlevel : imm8Field (encode (.setBrightness level)) = level := by
      rw [imm8Field, encode, extractLsb'_packWord_low _ _ _ _ (by decide),
        BitVec.extractLsb'_setWidth_of_le (by decide), BitVec.extractLsb'_eq_self]
    simp [Instr.opcode, hlevel]
  | clear => rfl
  | drawPixel x y r g b =>
    obtain ⟨hx, hy⟩ := Bool.and_eq_true_iff.mp h
    simp [Instr.opcode, encode, xField, yField, rField, gField, bField, extractLsb'_packWord_x,
      extractLsb'_packWord_y, extractLsb'_packWord_low, extractLsb'_packChannels_red, extractLsb'_packChannels_green,
      extractLsb'_packChannels_blue, toInt_ofInt_of_fitsI16 hx, toInt_ofInt_of_fitsI16 hy, -BitVec.toInt_ofInt]
  | drawPixelPacked x y color =>
    obtain ⟨hx, hy⟩ := Bool.and_eq_true_iff.mp h
    simp [Instr.opcode, encode, xField, yField, colorField, extractLsb'_packWord_x, extractLsb'_packWord_y,
      extractLsb'_packWord_low, toInt_ofInt_of_fitsI16 hx, toInt_ofInt_of_fitsI16 hy, -BitVec.toInt_ofInt]
  | showFrame => rfl

end Sys2Proof

namespace Sys2Proof.Machine

/-! ### Bits on the wire (R43) -/

@[simp] theorem byteSymbols_length (t : Byte) : (byteSymbols t).length = 8 := rfl

theorem byteSymbols_getElem? (t : Byte) {k : Nat} (hk : k < 8) :
    (byteSymbols t)[k]? = some (symOfBit (t.getLsbD (7 - k))) := by
  interval_cases k <;> rfl

@[simp] theorem dataSymbols_length (t : List Byte) : (dataSymbols t).length = 8 * t.length := by
  induction t with
  | nil => rfl
  | cons b t ih => rw [dataSymbols_cons, List.length_append, byteSymbols_length, ih, List.length_cons]; omega

/-- R43: eight symbols for each byte, most significant bit first. -/
theorem dataSymbols_getElem? (t : List Byte) (k : Nat) :
    (dataSymbols t)[k]? = (t[k / 8]?).map fun b => symOfBit (b.getLsbD (7 - k % 8)) := by
  induction t generalizing k with
  | nil => rfl
  | cons b t ih =>
    rw [dataSymbols_cons]
    by_cases hk : k < 8
    · rw [List.getElem?_append_left hk, byteSymbols_getElem? b hk, Nat.div_eq_of_lt hk, Nat.mod_eq_of_lt hk]
      rfl
    · obtain ⟨j, rfl⟩ : ∃ j, k = j + 8 := ⟨k - 8, by omega⟩
      rw [List.getElem?_append_right (by rw [byteSymbols_length]; omega), byteSymbols_length, Nat.add_sub_cancel, ih,
        Nat.add_div_right j (by decide), Nat.add_mod_right, List.getElem?_cons_succ]

/-! ### An accepted command has its effect (R50, R152) -/

theorem CommandEffect.exec_eq {i : Instr} {s t : State} (h : CommandEffect s i t) (hr : s.cmdReady = true) :
    exec i s = .next t := by
  cases h with
  | panelInit pin => exact execPanelInit_of_ready hr pin
  | setBrightness level hs => rw [exec, execSetBrightness, whenConstructed_of_idleReady hs]
  | clear hs => rw [exec, execClear, whenConstructed_of_idleReady hs]
  | drawPixel x y r g b hs => rw [exec, execDrawPixel, whenConstructed_of_idleReady hs]
  | drawPixelPacked x y color hs => rw [exec, execDrawPixelPacked, whenConstructed_of_idleReady hs]
  | showFrame hs => exact exec_showFrame_of_idleReady hs

/-- Before construction `PANEL_INIT` has an effect (at the default `PinSupported`, log entry 12), after it every
command. -/
theorem exists_commandEffect {i : Instr} {s : State} (hr : s.cmdReady = true)
    (hi : s.mode = .unbound → ∃ pin, i = .panelInit pin) : ∃ t, CommandEffect s i t := by
  obtain ⟨hm | hm, hb⟩ := s.cmdReady_iff.mp hr
  · obtain ⟨pin, rfl⟩ := hi hm
    exact ⟨_, .panelInit pin⟩
  · have hs : s.idleReady := ⟨hm, hb⟩
    cases i with
    | panelInit pin => exact ⟨_, .panelInit pin⟩
    | setBrightness level => exact ⟨_, .setBrightness level hs⟩
    | clear => exact ⟨_, .clear hs⟩
    | drawPixel x y r g b => exact ⟨_, .drawPixel x y r g b hs⟩
    | drawPixelPacked x y color => exact ⟨_, .drawPixelPacked x y color hs⟩
    | showFrame => exact ⟨_, .showFrame hs⟩

theorem CommandEffect.idleReady {i : Instr} {s t : State} (h : CommandEffect s i t) (hr : s.cmdReady = true) :
    t.idleReady := ⟨h.mode_eq_idle, h.busy_eq.trans (s.cmdReady_iff.mp hr).2⟩

/-- R51: only `SHOW` reaches the histories of the line, the LEDs and `TXBUF`. -/
theorem CommandEffect.line_unchanged {i : Instr} {s t : State} (h : CommandEffect s i t) (hi : i ≠ .showFrame) :
    t.wire = s.wire ∧ t.leds = s.leds ∧ t.txbuf = s.txbuf ∧ t.trace = s.trace := by
  cases h with
  | showFrame _ => exact absurd rfl hi
  | _ => exact ⟨rfl, rfl, rfl, rfl⟩

/-! ### A write repeated (R49, R54) -/

/-- R54: where the second triple is written the first is gone, and elsewhere neither wrote. -/
theorem plot_plot {m : Memory} (h : m.wf = true) (x y : Int) (r g b r' g' b' : Byte) :
    plot (plot m x y r g b) x y r' g' b' = plot m x y r' g' b' := by
  cases hin : inBounds x y with
  | false => simp only [plot_of_not_inBounds hin]
  | true =>
    refine Memory.ext (plot_keeps_wf (plot_keeps_wf h x y r g b) x y r' g' b') (plot_keeps_wf h x y r' g' b')
      fun a => ?_
    simp only [plot_of_inBounds hin]
    split_ifs <;> rfl

/-- R49: running a command other than `SHOW` again changes nothing more. -/
theorem CommandEffect.again {i : Instr} {s t : State} (h : CommandEffect s i t) (hi : i ≠ .showFrame)
    (hwf : s.fb.wf = true) : CommandEffect t i t := by
  cases h with
  | panelInit pin =>
    convert CommandEffect.panelInit pin using 1
    simp [construct]
  | setBrightness level hs => exact .setBrightness level hs
  | clear hs => exact .clear hs
  | drawPixel x y r g b hs =>
    have hd := CommandEffect.drawPixel (s := { s with fb := plot s.fb x y r g b }) x y r g b hs
    rwa [plot_plot hwf] at hd
  | drawPixelPacked x y color hs =>
    have hd := CommandEffect.drawPixelPacked
      (s := { s with fb := plot s.fb x y (packedRed color) (packedGreen color) (packedBlue color) }) x y color hs
    rwa [plot_plot hwf] at hd
  | showFrame _ => exact absurd rfl hi

/-! ### `SHOW` repeated (R49, R148) -/

/-- What `SHOW` puts on `WIRE`: the scaled copy of `FB` and one `RESET`. -/
def flushSymbols (s : State) : List Sym := transmitSymbols ((copyScaled s).memReadTx 0 768)

theorem flushSymbols_length (s : State) : (flushSymbols s).length = 6145 := by
  have hlen : ((copyScaled s).memReadTx 0 768).length = 768 := by simp [State.memReadTx]
  rw [flushSymbols, transmitSymbols_of_ne_nil (List.ne_nil_of_length_pos (by omega)), List.length_append,
    dataSymbols_length, hlen]
  rfl

/-- The state `SHOW` leads to. -/
abbrev flushed (s : State) : State := sdTransmit frameLength (copyScaled s)

theorem flushed_wire (s : State) : (flushed s).wire = s.wire ++ flushSymbols s := by
  rw [flushed, sdTransmit, if_neg frameLength_ne_zero, receiveFrame_wire]
  rfl

theorem copyScaled_flushed_txbuf (s : State) : (copyScaled (flushed s)).txbuf = (copyScaled s).txbuf := by
  simp [State.fbByte]

theorem flushSymbols_flushed (s : State) : flushSymbols (flushed s) = flushSymbols s := by
  have hbyte : (copyScaled (flushed s)).txByte = (copyScaled s).txByte := by
    funext a
    rw [State.txByte, State.txByte, copyScaled_flushed_txbuf, copyScaled_epoch, sdTransmit_epoch, copyScaled_epoch]
  rw [flushSymbols, flushSymbols, State.memReadTx, State.memReadTx, hbyte]

/-! ### What the host offers next is nothing to a command (R11) -/

theorem sdTransmit_with_stimuli (n : BitVec 16) (s : State) (rest : List Stimulus) :
    sdTransmit n { s with stimuli := rest } = { sdTransmit n s with stimuli := rest } := by
  unfold sdTransmit receiveFrame
  dsimp only
  split
  · rfl
  · split <;> rfl

theorem CommandEffect.with_stimuli {i : Instr} {s t : State} (h : CommandEffect s i t) (rest : List Stimulus) :
    CommandEffect { s with stimuli := rest } i { t with stimuli := rest } := by
  cases h with
  | panelInit pin => exact .panelInit pin
  | setBrightness level hs => exact .setBrightness level hs
  | clear hs => exact .clear hs
  | drawPixel x y r g b hs => exact .drawPixel x y r g b hs
  | drawPixelPacked x y color hs => exact .drawPixelPacked x y color hs
  | showFrame hs =>
    rw [← sdTransmit_with_stimuli]
    exact .showFrame hs

/-! ### An issued program (R50, R70) -/

theorem step_of_issued {s : State} {w : CmdWord} {rest : List Stimulus} {i : Instr}
    (hs : s.stimuli = .command w :: rest) (hr : s.cmdReady = true) (hw : decodeWord w = .ok i) :
    step s = exec i { s with stimuli := rest } := by
  simp only [step, hs, hr, if_true, runCommand, hw]

/-- An issued command has its effect at one step and is used up. -/
theorem step_of_issued_effect {s t : State} {i : Instr} {rest : List Stimulus} (h : CommandEffect s i t)
    (hr : s.cmdReady = true) (hwf : i.wf = true) (hs : s.stimuli = .command (encode i) :: rest) :
    step s = .next { t with stimuli := rest } := by
  rw [step_of_issued hs hr (decodeWord_encode hwf)]
  exact (h.with_stimuli rest).exec_eq hr

/-- A program that may begin here runs to its end, one step for each word, as its commands one after another. -/
theorem run_issued {is : List Instr} {s : State} (hr : s.cmdReady = true)
    (hfirst : s.mode = .unbound → ∃ pin, is.head? = some (.panelInit pin)) (hwf : ∀ i ∈ is, i.wf = true)
    (hs : s.stimuli = is.map fun i => .command (encode i)) :
    ∃ t, Host.Core.run Sys2Proof.core is.length s = .next t ∧ issueAll is { s with stimuli := [] } = .next t := by
  induction is generalizing s with
  | nil =>
    have hnil : s.stimuli = [] := hs
    have hself : { s with stimuli := [] } = s := by rw [← hnil]
    exact ⟨s, rfl, congrArg Host.Outcome.next hself⟩
  | cons i is ih =>
    obtain ⟨u, hu⟩ := exists_commandEffect hr (by simpa using hfirst)
    have hstep := step_of_issued_effect hu hr (hwf i List.mem_cons_self) hs
    have hexec : exec i { s with stimuli := [] } = .next { u with stimuli := [] } := (hu.with_stimuli []).exec_eq hr
    have hidle : u.idleReady := hu.idleReady hr
    obtain ⟨t, hrun, hissue⟩ := ih (s := { u with stimuli := is.map fun i => .command (encode i) }) hidle.cmdReady
      (fun hm => absurd (hidle.1.symm.trans hm) (by decide)) (fun j hj => hwf j (List.mem_cons_of_mem i hj)) rfl
    refine ⟨t, ?_, ?_⟩
    · rw [List.length_cons, run_succ_of_next hstep, hrun]
    · rw [issueAll, hexec]
      exact hissue

end Sys2Proof.Machine

open Sys2Proof Sys2Proof.Machine

/-- Settles O13: a program that begins with `PANEL_INIT` may begin in any ready state. -/
theorem issuedProgramRunsToItsEnd : Obligations.IssuedProgramRunsToItsEnd := by
  unfold Obligations.IssuedProgramRunsToItsEnd
  intro s pin is hr hwf hs
  have hwf' : ∀ i ∈ Instr.panelInit pin :: is, i.wf = true := List.forall_mem_cons.mpr ⟨rfl, hwf⟩
  obtain ⟨t, hrun, hissue⟩ := run_issued hr (fun _ => ⟨pin, rfl⟩) hwf' hs
  exact ⟨⟨t, hrun⟩, hrun.trans hissue.symm⟩

/-- Settles O21: the effect of a command other than `SHOW` is its own effect again, and a second `SHOW` makes the same
copy. -/
theorem commandTwiceIsOnceButForTheWire : Obligations.CommandTwiceIsOnceButForTheWire := by
  unfold Obligations.CommandTwiceIsOnceButForTheWire
  intro i s hr hfirst hwf
  obtain ⟨t, ht⟩ := exists_commandEffect hr hfirst
  have htr : t.cmdReady = true := (ht.idleReady hr).cmdReady
  by_cases hi : i = .showFrame
  · subst hi
    cases ht with
    | showFrame hidle =>
      have hidle' : (flushed s).idleReady := (CommandEffect.showFrame hidle).idleReady hr
      have htxbuf : (flushed (flushed s)).txbuf = (flushed s).txbuf := by
        rw [sdTransmit_txbuf, sdTransmit_txbuf, copyScaled_flushed_txbuf]
      have hwire : (flushed (flushed s)).wire = (flushed s).wire ++ flushSymbols s := by
        rw [flushed_wire (flushed s), flushSymbols_flushed]
      exact ⟨_, _, exec_showFrame_of_idleReady hidle, exec_showFrame_of_idleReady hidle', by simp, by simp, by simp,
        by simp, htxbuf, fun hne => absurd rfl hne,
        fun _ => ⟨by simp, flushSymbols s, flushSymbols_length s, flushed_wire s, hwire⟩⟩
  · exact ⟨t, t, ht.exec_eq hr, (ht.again hi hwf).exec_eq htr, rfl, rfl, rfl, rfl, rfl,
      fun _ => ⟨rfl, (ht.line_unchanged hi).1⟩, fun h => absurd h hi⟩

/-- Settles O26: the second triple overwrites the first. -/
theorem lastPixelWriteWins : Obligations.LastPixelWriteWins := by
  unfold Obligations.LastPixelWriteWins
  intro s x y r g b r' g' b' hidle hwf
  have hfirst := CommandEffect.drawPixel x y r g b hidle
  have hsecond := CommandEffect.drawPixel (s := { s with fb := plot s.fb x y r g b }) x y r' g' b' hidle
  have halone := CommandEffect.drawPixel x y r' g' b' hidle
  rw [plot_plot hwf] at hsecond
  exact ⟨_, _, hfirst.exec_eq hidle.cmdReady, hsecond.exec_eq hidle.cmdReady, halone.exec_eq hidle.cmdReady⟩

/-- Settles O36: a symbol of the first byte, or by induction one of the bytes after it. -/
theorem wireBitsAreMsbFirst : Obligations.WireBitsAreMsbFirst := dataSymbols_getElem?

/-- Settles O54: an accepted command has its effect, and only that of `SHOW` reaches the line. -/
theorem onlyShowReachesTheWire : Obligations.OnlyShowReachesTheWire :=
  fun _ _ _ hr hi h => (commandEffect_of_exec hr h).line_unchanged hi

/-- Settles O7: a ready block takes the word from the head of the stimuli and decodes it. -/
theorem stepRunsTheIssuedCommand : Obligations.StepRunsTheIssuedCommand :=
  fun _ _ _ _ hs hr hw => step_of_issued hs hr hw

end

section
/-! PROOFS. The command encoding (30_encoding.md): a word is the sum of its fields (R71), so the word of a command is
R83's expression; which command a word is, said once as a relation between the word and the command (R72, R77, R80),
from which come the round trip on the used bits and the indifference to the unused ones (R78). -/

namespace Sys2Proof

/-! ### A word as the sum of its fields (R71) -/

/-- The fields cut at every boundary that some format has, `imm8` below the rest of `color`. -/
theorem CmdWord.toNat_eq_fields (w : CmdWord) :
    w.toNat = (w.extractLsb' 60 4).toNat * 2 ^ 60 + (w.extractLsb' 56 4).toNat * 2 ^ 56 +
      (w.extractLsb' 40 16).toNat * 2 ^ 40 + (w.extractLsb' 24 16).toNat * 2 ^ 24 +
      (w.extractLsb' 8 16).toNat * 2 ^ 8 + (w.extractLsb' 0 8).toNat := by
  simp only [BitVec.extractLsb'_toNat, Nat.shiftRight_eq_div_pow]
  omega

theorem CmdWord.eq_of_fields_eq {w w' : CmdWord} (hop : w.extractLsb' 60 4 = w'.extractLsb' 60 4)
    (hrsv : w.extractLsb' 56 4 = w'.extractLsb' 56 4) (hx : w.extractLsb' 40 16 = w'.extractLsb' 40 16)
    (hy : w.extractLsb' 24 16 = w'.extractLsb' 24 16) (hhigh : w.extractLsb' 8 16 = w'.extractLsb' 8 16)
    (himm : w.extractLsb' 0 8 = w'.extractLsb' 0 8) : w = w' :=
  BitVec.eq_of_toNat_eq (by rw [toNat_eq_fields w, toNat_eq_fields w', hop, hrsv, hx, hy, hhigh, himm])

theorem Packed.toNat_eq_channels (c : Packed) :
    c.toNat = (c.extractLsb' 16 8).toNat * 2 ^ 16 + (c.extractLsb' 8 8).toNat * 2 ^ 8 + (c.extractLsb' 0 8).toNat := by
  simp only [BitVec.extractLsb'_toNat, Nat.shiftRight_eq_div_pow]
  omega

theorem Packed.toNat_eq_high_low (c : Packed) :
    c.toNat = (c.extractLsb' 8 16).toNat * 2 ^ 8 + (c.extractLsb' 0 8).toNat := by
  simp only [BitVec.extractLsb'_toNat, Nat.shiftRight_eq_div_pow]
  omega

/-! ### The word of a command as a number (R83) -/

theorem extractLsb'_packWord_op (op : BitVec 4) (x y : BitVec 16) (low : Packed) :
    (packWord op x y low).extractLsb' 60 4 = op := Laws.opcodeField_packWord op x y low

theorem extractLsb'_packWord_rsv (op : BitVec 4) (x y : BitVec 16) (low : Packed) :
    (packWord op x y low).extractLsb' 56 4 = 0#4 := by
  simp only [packWord, BitVec.extractLsb'_or, extractLsb'_field_below op (by decide : 56 + 4 ≤ 60),
    extractLsb'_field_above x (by decide : 40 + 16 ≤ 56), extractLsb'_field_above y (by decide : 24 + 16 ≤ 56),
    extractLsb'_setWidth_above low (by decide : 24 ≤ 56), BitVec.or_zero]

theorem packWord_toNat (op : BitVec 4) (x y : BitVec 16) (low : Packed) :
    (packWord op x y low).toNat = op.toNat * 2 ^ 60 + x.toNat * 2 ^ 40 + y.toNat * 2 ^ 24 + low.toNat := by
  rw [CmdWord.toNat_eq_fields, Packed.toNat_eq_high_low low, extractLsb'_packWord_op, extractLsb'_packWord_rsv,
    extractLsb'_packWord_x, extractLsb'_packWord_y, extractLsb'_packWord_low _ _ _ _ (by decide : 8 + 16 ≤ 24),
    extractLsb'_packWord_low _ _ _ _ (by decide : 0 + 8 ≤ 24), BitVec.toNat_zero]
  omega

/-- Format B: `imm8` in the place of `b`. -/
theorem packByte_toNat (op : BitVec 4) (imm : Byte) :
    (packWord op 0#16 0#16 (imm.setWidth 24)).toNat = op.toNat * 2 ^ 60 + imm.toNat := by
  rw [packWord_toNat, BitVec.toNat_setWidth_of_le (by decide), BitVec.toNat_zero, Nat.zero_mul, Nat.zero_mul,
    Nat.add_zero]

theorem packChannels_toNat (r g b : Byte) :
    (packChannels r g b).toNat = r.toNat * 2 ^ 16 + g.toNat * 2 ^ 8 + b.toNat := by
  rw [Packed.toNat_eq_channels, extractLsb'_packChannels_red, extractLsb'_packChannels_green,
    extractLsb'_packChannels_blue]

theorem toNat_ofInt_i16 (v : Int) : ((BitVec.ofInt 16 v).toNat : Int) = v % 65536 := by
  rw [BitVec.toNat_ofInt]
  exact Int.toNat_of_nonneg (Int.emod_nonneg v (by decide))

/-- The three channel slices of a word side by side are its `color` slice: formats P and C place red, green and blue
in the same bits (R76). -/
theorem packChannels_fields (w : CmdWord) : packChannels (rField w) (gField w) (bField w) = colorField w := by
  apply BitVec.eq_of_toNat_eq
  rw [packChannels_toNat]
  simp only [rField, gField, bField, colorField, BitVec.extractLsb'_toNat, Nat.shiftRight_eq_div_pow]
  omega

/-! ### Which command a word is (R72, R77, R80) -/

/-- The command of a word, row by row of the opcode table, with the operands R77 takes from the word. -/
inductive DecodesTo (w : CmdWord) : Instr → Prop where
  | panelInit (hop : (opcodeField w).toNat = 1) : DecodesTo w (.panelInit (pinField w))
  | setBrightness (hop : (opcodeField w).toNat = 2) : DecodesTo w (.setBrightness (imm8Field w))
  | clear (hop : (opcodeField w).toNat = 3) : DecodesTo w .clear
  | drawPixel (hop : (opcodeField w).toNat = 4) :
      DecodesTo w (.drawPixel (xField w) (yField w) (rField w) (gField w) (bField w))
  | drawPixelPacked (hop : (opcodeField w).toNat = 5) :
      DecodesTo w (.drawPixelPacked (xField w) (yField w) (colorField w))
  | showFrame (hop : (opcodeField w).toNat = 6) : DecodesTo w .showFrame

theorem decodeWord_eq_ok_iff {w : CmdWord} {i : Instr} : decodeWord w = .ok i ↔ DecodesTo w i := by
  constructor
  · intro h
    unfold decodeWord at h
    split at h <;> cases h <;> constructor <;> assumption
  · intro h
    cases h <;> simp only [decodeWord, *]

/-- R78: the word listed for a command is its canonical word. -/
theorem decodeWord_of_encode_eq {w : CmdWord} {i : Instr} (h : encode i = w) (hwf : i.wf = true) :
    decodeWord w = .ok i := h ▸ decodeWord_encode hwf

/-- The ten reserved opcodes (R79). -/
theorem decodeWord_of_reserved {w : CmdWord} (h : (opcodeField w).toNat = 0 ∨ 7 ≤ (opcodeField w).toNat) :
    decodeWord w = .error (.reservedOpcode (opcodeField w)) := by
  unfold decodeWord
  split
  case h_7 => rfl
  all_goals omega

theorem DecodesTo.opcode {w : CmdWord} {i : Instr} (h : DecodesTo w i) : opcodeField w = i.opcode := by
  cases h <;> exact BitVec.eq_of_toNat_eq (by assumption)

/-- Every bit pattern of a coordinate field is a legal operand (R77). -/
theorem fitsI16_toInt (v : BitVec 16) : fitsI16 v.toInt = true := by
  have hlow := v.le_toInt
  have hhigh := v.toInt_lt
  simp only [fitsI16, Bool.and_eq_true, decide_eq_true_eq]
  omega

theorem DecodesTo.wf {w : CmdWord} {i : Instr} (h : DecodesTo w i) : i.wf = true := by
  cases h with
  | panelInit | setBrightness | clear | showFrame => rfl
  | drawPixel | drawPixelPacked => exact Bool.and_eq_true_iff.mpr ⟨fitsI16_toInt _, fitsI16_toInt _⟩

/-! ### Used and unused bits (R78) -/

/-- A field that a mask leaves whole. -/
theorem extractLsb'_and_kept {w m : CmdWord} {k n : Nat} (hm : m.extractLsb' k n = BitVec.allOnes n) :
    (w &&& m).extractLsb' k n = w.extractLsb' k n := by
  rw [BitVec.extractLsb'_and, hm, BitVec.and_allOnes]

/-- A field that a mask clears. -/
theorem extractLsb'_and_cleared {w m : CmdWord} {k n : Nat} (hm : m.extractLsb' k n = 0#n) :
    (w &&& m).extractLsb' k n = 0#n := by
  rw [BitVec.extractLsb'_and, hm, BitVec.and_zero]

/-- Words that agree under a mask have the same fields where the mask leaves them whole. -/
theorem extractLsb'_eq_of_and_eq {w w' m : CmdWord} {k n : Nat} (h : w &&& m = w' &&& m)
    (hm : m.extractLsb' k n = BitVec.allOnes n) : w.extractLsb' k n = w'.extractLsb' k n := by
  rw [← extractLsb'_and_kept hm, h, extractLsb'_and_kept hm]

/-- Formats P and C use every field but `rsv` (R75, R76). -/
theorem packWord_pixelFields (w : CmdWord) :
    packWord (opcodeField w) (w.extractLsb' 40 16) (w.extractLsb' 24 16) (colorField w) =
      w &&& 0xF0FFFFFFFFFFFFFF#64 := by
  apply CmdWord.eq_of_fields_eq
  · rw [extractLsb'_packWord_op, extractLsb'_and_kept (by decide), opcodeField]
  · rw [extractLsb'_packWord_rsv, extractLsb'_and_cleared (by decide)]
  · rw [extractLsb'_packWord_x, extractLsb'_and_kept (by decide)]
  · rw [extractLsb'_packWord_y, extractLsb'_and_kept (by decide)]
  · rw [extractLsb'_packWord_low _ _ _ _ (by decide), extractLsb'_and_kept (by decide), colorField,
      BitVec.extractLsb'_extractLsb'_of_le (by decide)]
  · rw [extractLsb'_packWord_low _ _ _ _ (by decide), extractLsb'_and_kept (by decide), colorField,
      BitVec.extractLsb'_extractLsb'_of_le (by decide)]

/-- Format B uses the opcode and `imm8` (R74). -/
theorem packWord_byteFields (w : CmdWord) :
    packWord (opcodeField w) 0#16 0#16 ((imm8Field w).setWidth 24) = w &&& 0xF0000000000000FF#64 := by
  apply CmdWord.eq_of_fields_eq
  · rw [extractLsb'_packWord_op, extractLsb'_and_kept (by decide), opcodeField]
  · rw [extractLsb'_packWord_rsv, extractLsb'_and_cleared (by decide)]
  · rw [extractLsb'_packWord_x, extractLsb'_and_cleared (by decide)]
  · rw [extractLsb'_packWord_y, extractLsb'_and_cleared (by decide)]
  · rw [extractLsb'_packWord_low _ _ _ _ (by decide), extractLsb'_and_cleared (by decide),
      extractLsb'_setWidth_above _ (by decide)]
  · rw [extractLsb'_packWord_low _ _ _ _ (by decide), extractLsb'_and_kept (by decide),
      BitVec.extractLsb'_setWidth_of_le (by decide), BitVec.extractLsb'_eq_self, imm8Field]

/-- Format N uses the opcode alone (R73). -/
theorem packWord_opcodeField (w : CmdWord) :
    packWord (opcodeField w) 0#16 0#16 0#24 = w &&& 0xF000000000000000#64 := by
  apply CmdWord.eq_of_fields_eq
  · rw [extractLsb'_packWord_op, extractLsb'_and_kept (by decide), opcodeField]
  · rw [extractLsb'_packWord_rsv, extractLsb'_and_cleared (by decide)]
  · rw [extractLsb'_packWord_x, extractLsb'_and_cleared (by decide)]
  · rw [extractLsb'_packWord_y, extractLsb'_and_cleared (by decide)]
  · rw [extractLsb'_packWord_low _ _ _ _ (by decide), extractLsb'_and_cleared (by decide), BitVec.extractLsb'_zero]
  · rw [extractLsb'_packWord_low _ _ _ _ (by decide), extractLsb'_and_cleared (by decide), BitVec.extractLsb'_zero]

/-- R78: the canonical word of a decoded command is its word with the unused bits cleared. -/
theorem DecodesTo.encode_eq {w : CmdWord} {i : Instr} (h : DecodesTo w i) : encode i = w &&& i.usedBits := by
  have hop := h.opcode
  cases h with
  | panelInit | setBrightness =>
    rw [encode, ← hop]
    exact packWord_byteFields w
  | clear | showFrame =>
    rw [encode, ← hop]
    exact packWord_opcodeField w
  | drawPixel =>
    rw [encode, ← hop, xField, yField, BitVec.ofInt_toInt, BitVec.ofInt_toInt, packChannels_fields]
    exact packWord_pixelFields w
  | drawPixelPacked =>
    rw [encode, ← hop, xField, yField, BitVec.ofInt_toInt, BitVec.ofInt_toInt]
    exact packWord_pixelFields w

/-- Every format uses the opcode (R73 to R76). -/
theorem Instr.extractLsb'_usedBits_op (i : Instr) : i.usedBits.extractLsb' 60 4 = BitVec.allOnes 4 := by
  cases i <;> simp only [Instr.usedBits] <;> decide

/-- R78: a word that agrees on the used bits of a command is that command. -/
theorem DecodesTo.of_usedBits_eq {w w' : CmdWord} {i : Instr} (h : DecodesTo w i)
    (hw : w &&& i.usedBits = w' &&& i.usedBits) : DecodesTo w' i := by
  have hop : opcodeField w = opcodeField w' := extractLsb'_eq_of_and_eq hw i.extractLsb'_usedBits_op
  cases h with
  | panelInit h =>
    simp only [Instr.usedBits] at hw
    have hpin : pinField w = pinField w' := extractLsb'_eq_of_and_eq hw (by decide)
    rw [hpin]
    exact .panelInit (hop ▸ h)
  | setBrightness h =>
    simp only [Instr.usedBits] at hw
    have hlevel : imm8Field w = imm8Field w' := extractLsb'_eq_of_and_eq hw (by decide)
    rw [hlevel]
    exact .setBrightness (hop ▸ h)
  | clear h => exact .clear (hop ▸ h)
  | drawPixel h =>
    simp only [Instr.usedBits] at hw
    have hx : xField w = xField w' := congrArg BitVec.toInt (extractLsb'_eq_of_and_eq hw (by decide))
    have hy : yField w = yField w' := congrArg BitVec.toInt (extractLsb'_eq_of_and_eq hw (by decide))
    have hr : rField w = rField w' := extractLsb'_eq_of_and_eq hw (by decide)
    have hg : gField w = gField w' := extractLsb'_eq_of_and_eq hw (by decide)
    have hb : bField w = bField w' := extractLsb'_eq_of_and_eq hw (by decide)
    rw [hx, hy, hr, hg, hb]
    exact .drawPixel (hop ▸ h)
  | drawPixelPacked h =>
    simp only [Instr.usedBits] at hw
    have hx : xField w = xField w' := congrArg BitVec.toInt (extractLsb'_eq_of_and_eq hw (by decide))
    have hy : yField w = yField w' := congrArg BitVec.toInt (extractLsb'_eq_of_and_eq hw (by decide))
    have hcolor : colorField w = colorField w' := extractLsb'_eq_of_and_eq hw (by decide)
    rw [hx, hy, hcolor]
    exact .drawPixelPacked (hop ▸ h)
  | showFrame h => exact .showFrame (hop ▸ h)

theorem packWord_and_pixelBits (op : BitVec 4) (x y : BitVec 16) (low : Packed) :
    packWord op x y low &&& 0xF0FFFFFFFFFFFFFF#64 = packWord op x y low := by
  rw [← packWord_pixelFields, opcodeField, colorField, extractLsb'_packWord_op, extractLsb'_packWord_x,
    extractLsb'_packWord_y, extractLsb'_packWord_low _ _ _ _ (by decide), BitVec.extractLsb'_eq_self]

theorem packWord_and_byteBits (op : BitVec 4) (imm : Byte) :
    packWord op 0#16 0#16 (imm.setWidth 24) &&& 0xF0000000000000FF#64 = packWord op 0#16 0#16 (imm.setWidth 24) := by
  rw [← packWord_byteFields, opcodeField, imm8Field, extractLsb'_packWord_op,
    extractLsb'_packWord_low _ _ _ _ (by decide), BitVec.extractLsb'_setWidth_of_le (by decide),
    BitVec.extractLsb'_eq_self]

/-- The canonical word of any command, in range or not, lies within the used bits of its format (R78). -/
theorem encode_and_usedBits (i : Instr) : encode i &&& i.usedBits = encode i := by
  cases i with
  | panelInit | setBrightness => exact packWord_and_byteBits _ _
  | clear | showFrame => rfl
  | drawPixel | drawPixelPacked => exact packWord_and_pixelBits _ _ _ _

end Sys2Proof

open Sys2Proof

/-- Settles O1: the decoder reads each field back from where the encoder put it. -/
theorem decodeOfEncodeIsTheCommand : Obligations.DecodeOfEncodeIsTheCommand := fun _ => decodeWord_encode

/-- Settles O2: the number of a packed word is the sum of its fields. -/
theorem encodeIsTheFormula : Obligations.EncodeIsTheFormula := by
  unfold Obligations.EncodeIsTheFormula
  refine ⟨fun pin => ?_, fun level => ?_, rfl, fun x y r g b => ?_, fun x y color => ?_, rfl⟩
  · exact packByte_toNat _ pin
  · exact packByte_toNat _ level
  · rw [encode, packWord_toNat, packChannels_toNat]
    push_cast [toNat_ofInt_i16]
    simp [Instr.opcode, Int.add_assoc]
  · rw [encode, packWord_toNat]
    push_cast [toNat_ofInt_i16]
    simp [Instr.opcode]

/-- Settles O3, by the rows of the opcode table. -/
theorem decodedWordIsCanonicalOnUsedBits : Obligations.DecodedWordIsCanonicalOnUsedBits := by
  unfold Obligations.DecodedWordIsCanonicalOnUsedBits
  intro w i h
  have hdec := decodeWord_eq_ok_iff.mp h
  exact ⟨hdec.wf, hdec.encode_eq⟩

/-- Settles O4: the decoder and the encoder both keep to the used bits. -/
theorem unusedBitsAreIgnored : Obligations.UnusedBitsAreIgnored := by
  unfold Obligations.UnusedBitsAreIgnored
  refine ⟨fun w w' i h hw => ?_, fun i => ?_⟩
  · exact decodeWord_eq_ok_iff.mpr ((decodeWord_eq_ok_iff.mp h).of_usedBits_eq hw)
  · rw [← encode_and_usedBits, BitVec.and_assoc, BitVec.and_not_self]
    exact BitVec.and_zero

/-- Settles O5: each opcode selects its row of the table, or none. -/
theorem opcodeDecidesTheCommand : Obligations.OpcodeDecidesTheCommand := by
  unfold Obligations.OpcodeDecidesTheCommand
  intro w op
  exact ⟨fun h => decodeWord_eq_ok_iff.mpr (.panelInit h), fun h => decodeWord_eq_ok_iff.mpr (.setBrightness h),
    fun h => decodeWord_eq_ok_iff.mpr (.clear h), fun h => decodeWord_eq_ok_iff.mpr (.drawPixel h),
    fun h => decodeWord_eq_ok_iff.mpr (.drawPixelPacked h), fun h => decodeWord_eq_ok_iff.mpr (.showFrame h),
    decodeWord_of_reserved⟩

/-- Settles O6: each listed word is the canonical word of its command, which the decoder gives back. -/
theorem listedWordsDecodeToTheirCommands : Obligations.ListedWordsDecodeToTheirCommands := by
  unfold Obligations.ListedWordsDecodeToTheirCommands
  refine ⟨decodeWord_of_encode_eq ?_ rfl, decodeWord_of_encode_eq ?_ rfl, decodeWord_of_encode_eq ?_ rfl,
    decodeWord_of_encode_eq ?_ rfl, decodeWord_of_encode_eq ?_ rfl, decodeWord_of_encode_eq ?_ rfl,
    decodeWord_of_encode_eq ?_ rfl⟩ <;> decide

end

section
/-! PROOFS. The Signal Driver (40_signal_driver.md): each edge of the clocked machine as one equation (R111 to R115); a
symbol list is read back from its waveform (R121) and lasts what its bits last (R118); a count of the cycles left shows
that every transmission ends and that a held offer meets a ready block (R124, R152); an edge reads nothing that the host
or a pixel command writes (R122, R52). -/

namespace Sys2Proof.Machine

/-! ### One edge of the serializer, as an equation (R111 to R115) -/

theorem advance_of_counting {s : State} (hm : s.mode.transmitting = true) (ht : s.tmr ≠ 0#16) :
    advance s = { s with tmr := s.tmr - 1#16 } := by
  cases h : s.mode with
  | unbound | idle => rw [h] at hm; cases hm
  | sending | latch => simp only [advance, h, if_pos ht]

theorem advance_of_highDone {s : State} (hm : s.mode = .sending) (hp : s.phase = .hi) (ht : s.tmr = 0#16) :
    advance s = highToLow s := by
  simp [advance, hm, hp, ht]

theorem advance_of_lowDone {s : State} (hm : s.mode = .sending) (hp : s.phase = .lo) (ht : s.tmr = 0#16) :
    advance s = nextBit s := by
  simp [advance, hm, hp, ht]

theorem advance_of_latchDone {s : State} (hm : s.mode = .latch) (ht : s.tmr = 0#16) : advance s = endLatch s := by
  simp [advance, hm, ht]

/-- R113: the cursor as two fields. -/
theorem advanceCursor_eq (s : State) :
    advanceCursor s = { s with
      biti := if s.biti = 0#3 then 7#3 else s.biti - 1#3
      txi := if s.biti = 0#3 then s.txi + 1#16 else s.txi } := by
  obtain ⟨h, he⟩ | ⟨h, he⟩ := advanceCursor_cases s <;> simp [he, h]

theorem advanceCursor_with_wire (s : State) (ys : List Sym) :
    advanceCursor { s with wire := ys } = { advanceCursor s with wire := ys } := by
  rw [advanceCursor_eq, advanceCursor_eq]

/-- R113, R114: a low phase ends in the latch gap at the end of the data, and in the next high phase before it. -/
theorem nextBit_eq (s : State) :
    nextBit s = if (advanceCursor s).txi = s.txlen
      then beginLatch { advanceCursor s with wire := s.wire ++ [symOfBit s.curBit] }
      else driveHigh { advanceCursor s with wire := s.wire ++ [symOfBit s.curBit] } := by
  simp only [nextBit, advanceCursor_with_wire, advanceCursor_txlen]

/-- R26 under the premise of decision D20: the receiver shows the frame it has taken up. -/
theorem endLatch_leds {s : State} (hlen : s.txlen = frameLength) (harmed : s.armed = true) :
    (endLatch s).leds = ledsOfTxbuf s := by
  rw [endLatch, receiveFrame, if_pos ⟨hlen, harmed⟩]
  rfl

/-- R107: what a transmission puts on `WIRE`. -/
theorem sdTransmit_wire {n : BitVec 16} (hn : n ≠ 0#16) (s : State) :
    (sdTransmit n s).wire = s.wire ++ transmitSymbols (s.memReadTx 0 n.toNat) := by
  rw [sdTransmit, if_neg hn, receiveFrame_wire]

theorem State.memReadTx_zero (s : State) (n : Nat) : s.memReadTx 0 n = (List.range n).map s.txByte := by
  rw [State.memReadTx, List.range_eq_range']

/-! ### The data as bits (R43) -/

/-- The bits of a byte list in the order of the wire (R43). -/
def dataBits (t : List Byte) : List Bool := t.flatMap fun b => [7, 6, 5, 4, 3, 2, 1, 0].map fun j => b.getLsbD j

theorem dataSymbols_eq_map (t : List Byte) : dataSymbols t = (dataBits t).map symOfBit := by
  rw [dataBits, List.map_flatMap]
  rfl

@[simp] theorem dataBits_length (t : List Byte) : (dataBits t).length = 8 * t.length := by
  rw [← dataSymbols_length, dataSymbols_eq_map, List.length_map]

theorem dataBits_count_true (t : List Byte) : (dataBits t).count true = onesIn t := by
  induction t with
  | nil => rfl
  | cons b t ih =>
    have hbyte : ([7, 6, 5, 4, 3, 2, 1, 0].map fun j => b.getLsbD j).count true = byteOnes b := by
      rw [byteOnes, ← List.countP_eq_length_filter, List.count, List.countP_map]
      simp [Function.comp_def]
    rw [dataBits, List.flatMap_cons, List.count_append, hbyte, ← dataBits, ih]
    rfl

/-! ### Nominal time (R118) -/

theorem nominalNs_append (xs ys : List Sym) : nominalNs (xs ++ ys) = nominalNs xs + nominalNs ys := by
  simp [nominalNs]

theorem nominalNs_bits (vs : List Bool) :
    nominalNs (vs.map symOfBit) = 1300 * vs.count true + 1150 * (vs.length - vs.count true) := by
  induction vs with
  | nil => rfl
  | cons v vs ih =>
    have hle : vs.count true ≤ vs.length := List.count_le_length
    have hcons : nominalNs ((v :: vs).map symOfBit) = symNs (symOfBit v) + nominalNs (vs.map symOfBit) := rfl
    rw [hcons, ih]
    cases v with
    | true =>
      have hns : symNs (symOfBit true) = 1300 := rfl
      rw [hns, List.count_cons_self, List.length_cons]
      omega
    | false =>
      have hns : symNs (symOfBit false) = 1150 := rfl
      rw [hns, List.count_cons_of_ne (by decide), List.length_cons]
      omega

theorem nominalNs_transmitSymbols {t : List Byte} (h : t ≠ []) :
    nominalNs (transmitSymbols t) = 1300 * onesIn t + 1150 * (8 * t.length - onesIn t) + 50000 := by
  rw [transmitSymbols_of_ne_nil h, nominalNs_append, dataSymbols_eq_map, nominalNs_bits, dataBits_count_true,
    dataBits_length]
  rfl

theorem durationCycles_eq (t : List Byte) :
    durationCycles t = 21 * onesIn t + 19 * (8 * t.length - onesIn t) + 800 := by
  simp only [durationCycles, Config.cycT1H, Config.cycT1L, Config.cycT0H, Config.cycT0L, Config.cycReset]
  omega

/-! ### The runs of a waveform, read as symbols (R121) -/

/-- The first run of a trace has the level of its first cycle. -/
theorem runsOf_cons (v : Level) (rest : List Level) : ∃ n more, runsOf (v :: rest) = (v, n) :: more := by
  cases h : runsOf rest with
  | nil => exact ⟨1, [], by rw [runsOf, h]⟩
  | cons r more =>
    obtain ⟨w, n⟩ := r
    by_cases hv : v = w
    · exact ⟨n + 1, more, by simp [runsOf, h, hv]⟩
    · exact ⟨1, (w, n) :: more, by simp [runsOf, h, hv]⟩

/-- Equal levels that something else follows, or nothing, are one run. -/
theorem runsOf_replicate_append (v : Level) (n : Nat) {rest : List Level} (hrest : rest.head? ≠ some v) :
    runsOf (List.replicate (n + 1) v ++ rest) = (v, n + 1) :: runsOf rest := by
  induction n with
  | zero =>
    cases rest with
    | nil => rfl
    | cons w rest =>
      have hne : v ≠ w := fun h => hrest (by rw [h, List.head?_cons])
      obtain ⟨k, more, hruns⟩ := runsOf_cons w rest
      change runsOf (v :: w :: rest) = _
      rw [runsOf, hruns]
      simp [hne]
  | succ n ih =>
    rw [List.replicate_succ, List.cons_append, runsOf, ih]
    simp

@[simp] theorem symOfHighRun_cycHigh (v : Bool) : symOfHighRun (cycHigh v) = [symOfBit v] := by cases v <;> decide

/-- A high phase is one run, which gives its bit. -/
theorem readTrace_high (v : Bool) {rest : List Level} (h : rest.head? ≠ some .h) :
    readTrace (List.replicate (cycHigh v) Level.h ++ rest) = symOfBit v :: readTrace rest := by
  obtain ⟨k, hk⟩ := Nat.exists_eq_add_one_of_ne_zero (cycHigh_pos v).ne'
  rw [readTrace, hk, runsOf_replicate_append _ _ h, ← hk, readRuns, symOfHighRun_cycHigh]
  rfl

/-- A low run that something follows gives nothing. -/
theorem readTrace_low (n : Nat) (rest : List Level) :
    readTrace (List.replicate n Level.l ++ Level.h :: rest) = readTrace (Level.h :: rest) := by
  cases n with
  | zero => rfl
  | succ n =>
    obtain ⟨k, more, hruns⟩ := runsOf_cons Level.h rest
    rw [readTrace, runsOf_replicate_append _ _ (by simp), readTrace, hruns]
    simp [readRuns]

/-- A last low run of at least the `CYC_RESET` cycles gives `RESET`. -/
theorem readTrace_gap {n : Nat} (h : Config.cycReset ≤ n) : readTrace (List.replicate n Level.l) = [Sym.reset] := by
  obtain ⟨k, rfl⟩ := Nat.exists_eq_add_one_of_ne_zero (cycReset_pos.trans_le h).ne'
  have hruns := runsOf_replicate_append .l k (rest := []) (by simp)
  rw [List.append_nil, runsOf] at hruns
  rw [readTrace, hruns, readRuns, decide_eq_true h]
  rfl

theorem waveform_reset : waveform [Sym.reset] = List.replicate Config.cycReset Level.l := by
  rw [waveform_cons, waveform_nil, List.append_nil, symLevels]

/-- However long the line has been low before it, a waveform of bits and the latch gap reads as its symbols: the low
phase before a bit gives nothing, and the last one is one run with the gap. -/
theorem readTrace_waveform (vs : List Bool) (n : Nat) :
    readTrace (List.replicate n Level.l ++ waveform (vs.map symOfBit ++ [Sym.reset])) =
      vs.map symOfBit ++ [Sym.reset] := by
  induction vs generalizing n with
  | nil =>
    rw [List.map_nil, List.nil_append, waveform_reset, ← List.replicate_add, readTrace_gap (Nat.le_add_left _ _)]
  | cons v vs ih =>
    obtain ⟨k, hk⟩ := Nat.exists_eq_add_one_of_ne_zero (cycHigh_pos v).ne'
    obtain ⟨j, hj⟩ := Nat.exists_eq_add_one_of_ne_zero (cycLow_pos v).ne'
    have hhigh : readTrace (List.replicate (cycHigh v) Level.h ++
        (List.replicate (cycLow v) Level.l ++ waveform (vs.map symOfBit ++ [Sym.reset]))) =
          symOfBit v :: (vs.map symOfBit ++ [Sym.reset]) := by
      rw [readTrace_high v (by simp [hj, List.replicate_succ]), ih]
    rw [List.map_cons, List.cons_append, waveform_cons, symLevels_symOfBit, List.append_assoc, ← hhigh, hk,
      List.replicate_succ, List.cons_append, readTrace_low]

/-! ### The cycles left of a transmission (R118, R124) -/

/-- The cycles of a transmission after those of the bit under the cursor. -/
def State.cyclesAfterBit (s : State) : Nat := (waveform (s.remaining.tail ++ [Sym.reset])).length

/-- The cycles of a transmission after the phase of the line that is timed now. -/
def State.cyclesAfterPhase (s : State) : Nat :=
  match s.mode, s.phase with
  | .sending, .hi => cycLow s.curBit + s.cyclesAfterBit
  | .sending, .lo => s.cyclesAfterBit
  | _, _ => 0

/-- The cycles from the present one to the edge that ends the transmission. -/
def State.cyclesLeft (s : State) : Nat :=
  if s.mode.transmitting then s.tmr.toNat + 1 + s.cyclesAfterPhase else 0

theorem cyclesAfterPhase_of_high {s : State} (hm : s.mode = .sending) (hp : s.phase = .hi) :
    s.cyclesAfterPhase = cycLow s.curBit + s.cyclesAfterBit := by
  simp only [State.cyclesAfterPhase, hm, hp]

theorem cyclesAfterPhase_of_low {s : State} (hm : s.mode = .sending) (hp : s.phase = .lo) :
    s.cyclesAfterPhase = s.cyclesAfterBit := by
  simp only [State.cyclesAfterPhase, hm, hp]

theorem cyclesAfterPhase_of_latch {s : State} (hm : s.mode = .latch) : s.cyclesAfterPhase = 0 := by
  simp only [State.cyclesAfterPhase, hm]

theorem cyclesLeft_of_transmitting {s : State} (hm : s.mode.transmitting = true) :
    s.cyclesLeft = s.tmr.toNat + 1 + s.cyclesAfterPhase := if_pos hm

theorem cyclesLeft_of_idle {s : State} (hm : s.mode = .idle) : s.cyclesLeft = 0 := if_neg (by simp [hm])

theorem cyclesLeft_pos {s : State} (hm : s.mode.transmitting = true) : 0 < s.cyclesLeft := by
  rw [cyclesLeft_of_transmitting hm]
  omega

theorem waveform_reset_length : (waveform [Sym.reset]).length = Config.cycReset := by
  rw [waveform_reset, List.length_replicate]

theorem symLevels_symOfBit_length (v : Bool) : (symLevels (symOfBit v)).length = cycHigh v + cycLow v := by
  rw [symLevels_symOfBit, List.length_append, List.length_replicate, List.length_replicate]

/-- The bit under the cursor lasts its two phases. -/
theorem waveform_remaining_length {s : State} (hlt : s.txi.toNat < s.txlen.toNat) :
    (waveform (s.remaining ++ [Sym.reset])).length = cycHigh s.curBit + cycLow s.curBit + s.cyclesAfterBit := by
  rw [State.cyclesAfterBit, State.remaining_eq_cons hlt, List.tail_cons, List.cons_append, waveform_cons,
    List.length_append, symLevels_symOfBit_length]

/-- From the first cycle of a bit on, the cycles left are those of the remaining symbols and the latch gap. -/
theorem cyclesLeft_driveHigh {s : State} (hm : s.mode = .sending) (hlt : s.txi.toNat < s.txlen.toNat) :
    (driveHigh s).cyclesLeft = (waveform (s.remaining ++ [Sym.reset])).length := by
  have hpos := cycHigh_pos s.curBit
  have hafter : (driveHigh s).cyclesAfterBit = s.cyclesAfterBit := rfl
  rw [cyclesLeft_of_transmitting (by simp [hm]), cyclesAfterPhase_of_high (s := driveHigh s) hm rfl, driveHigh_tmr,
    timerFor_cycHigh, driveHigh_curBit, hafter, waveform_remaining_length hlt]
  omega

theorem cyclesLeft_countDown {s : State} (hm : s.mode.transmitting = true) (ht : s.tmr ≠ 0#16) :
    s.cyclesLeft = State.cyclesLeft { s with tmr := s.tmr - 1#16 } + 1 := by
  have hdec : s.tmr.toNat = (s.tmr - 1#16).toNat + 1 := by bv_omega
  have hafter : State.cyclesAfterPhase { s with tmr := s.tmr - 1#16 } = s.cyclesAfterPhase := rfl
  rw [cyclesLeft_of_transmitting hm, cyclesLeft_of_transmitting (s := { s with tmr := s.tmr - 1#16 }) hm, hafter, hdec]
  dsimp only
  omega

theorem cyclesLeft_highToLow {s : State} (hm : s.mode = .sending) (hp : s.phase = .hi) (ht : s.tmr = 0#16) :
    s.cyclesLeft = (highToLow s).cyclesLeft + 1 := by
  have hpos := cycLow_pos s.curBit
  have hafter : (highToLow s).cyclesAfterBit = s.cyclesAfterBit := rfl
  rw [cyclesLeft_of_transmitting (by simp [hm]), cyclesAfterPhase_of_high hm hp, ht,
    cyclesLeft_of_transmitting (s := highToLow s) (by simp [hm]), cyclesAfterPhase_of_low (s := highToLow s) hm rfl,
    highToLow_tmr, timerFor_cycLow, hafter, BitVec.toNat_ofNat]
  omega

theorem cyclesLeft_nextBit {s : State} (hm : s.mode = .sending) (hp : s.phase = .lo) (ht : s.tmr = 0#16)
    (hlt : s.txi.toNat < s.txlen.toNat) : s.cyclesLeft = (nextBit s).cyclesLeft + 1 := by
  have hafter : s.cyclesAfterBit = (waveform ((advanceCursor s).remaining ++ [Sym.reset])).length := by
    rw [State.cyclesAfterBit, State.remaining_eq_cons hlt, List.tail_cons]
  rw [cyclesLeft_of_transmitting (by simp [hm]), cyclesAfterPhase_of_low hm hp, ht, hafter, nextBit_eq]
  split
  · next hend =>
    rw [State.remaining_eq_nil (by rw [hend, advanceCursor_txlen]), List.nil_append, waveform_reset_length,
      cyclesLeft_of_transmitting rfl, cyclesAfterPhase_of_latch rfl, beginLatch_tmr, timerFor_cycReset]
    rfl
  · next hne =>
    have hle := advanceCursor_txi_le hlt
    have hne' : (advanceCursor s).txi.toNat ≠ s.txlen.toNat := fun h => hne (BitVec.eq_of_toNat_eq h)
    rw [cyclesLeft_driveHigh (s := { advanceCursor s with wire := s.wire ++ [symOfBit s.curBit] })
      (by simpa using hm) (by simp only [advanceCursor_txlen]; omega), Nat.add_comm]
    rfl

/-- R111 to R115: every edge of a transmission leaves one cycle less. -/
theorem cyclesLeft_advance {s : State} (h : s.Inv) (hm : s.mode.transmitting = true) :
    s.cyclesLeft = (advance s).cyclesLeft + 1 := by
  obtain ⟨hm', _⟩ | ⟨_, ht, he⟩ | ⟨hs, ht, hp, he⟩ | ⟨hs, ht, hp, he⟩ | ⟨hl, ht, he⟩ := advance_cases s
  · rw [hm] at hm'; cases hm'
  · rw [he]; exact cyclesLeft_countDown hm ht
  · rw [he]; exact cyclesLeft_highToLow hs hp ht
  · rw [he]; exact cyclesLeft_nextBit hs hp ht (h.cursor hs)
  · rw [he, cyclesLeft_of_transmitting hm, cyclesAfterPhase_of_latch hl, ht, cyclesLeft_of_idle (endLatch_mode s)]
    rfl

/-- R114, R115: an edge of a transmission ends it, in a ready block, or leaves it going. -/
theorem advance_of_transmitting {s : State} (h : s.Inv) (hm : s.mode.transmitting = true) :
    (advance s).mode.transmitting = true ∨ (advance s).idleReady := by
  obtain ⟨hm', _⟩ | ⟨_, _, he⟩ | ⟨_, _, _, he⟩ | ⟨_, _, _, he⟩ | ⟨_, _, he⟩ := advance_cases s
  · rw [hm] at hm'; cases hm'
  · rw [he]; exact .inl hm
  · rw [he]; exact .inl hm
  · rw [he]; obtain hb | hb := nextBit_mode s <;> simp [hb, hm]
  · rw [he]; exact .inr ⟨endLatch_mode s, (endLatch_busy s).trans (h.busy_zero hm)⟩

theorem State.Inv.clockEdge {s : State} (h : s.Inv) : (clockEdge s).Inv := h.advance.observe

/-- R124: the block is ready again when the cycles left are over, and transmits until then. -/
theorem clockEdges_cyclesLeft {n : Nat} {s : State} (h : s.Inv) (hm : s.mode.transmitting = true ∨ s.idleReady)
    (hn : s.cyclesLeft = n) :
    (clockEdges n s).idleReady ∧ ∀ j < n, (clockEdges j s).mode.transmitting = true := by
  induction n generalizing s with
  | zero =>
    obtain hm | hidle := hm
    · exact absurd hn (cyclesLeft_pos hm).ne'
    · exact ⟨hidle, fun j hj => absurd hj (Nat.not_lt_zero j)⟩
  | succ n ih =>
    obtain hm | hidle := hm
    · have hless : s.cyclesLeft = (clockEdge s).cyclesLeft + 1 := cyclesLeft_advance h hm
      obtain ⟨hend, hbefore⟩ := ih h.clockEdge (advance_of_transmitting h hm) (by omega)
      refine ⟨hend, fun j hj => ?_⟩
      cases j with
      | zero => exact hm
      | succ j => exact hbefore j (by omega)
    · rw [cyclesLeft_of_idle hidle.1] at hn; cases hn

/-- R104, R105: a bit lasts at most the cycles of a `T1`. -/
theorem waveform_bits_length_le (vs : List Bool) : (waveform (vs.map symOfBit)).length ≤ 21 * vs.length := by
  induction vs with
  | nil => exact Nat.le_refl 0
  | cons v vs ih =>
    have hbit : cycHigh v + cycLow v ≤ 21 := by cases v <;> decide
    rw [List.map_cons, waveform_cons, List.length_append, symLevels_symOfBit_length, List.length_cons]
    omega

theorem waveform_remaining_length_le (s : State) :
    (waveform (s.remaining ++ [Sym.reset])).length ≤ 168 * (s.txlen.toNat - s.txi.toNat) + Config.cycReset := by
  have hbits := waveform_bits_length_le
    ((dataBits (s.memReadTx s.txi.toNat (s.txlen.toNat - s.txi.toNat))).drop (7 - s.biti.toNat))
  have hread : (s.memReadTx s.txi.toNat (s.txlen.toNat - s.txi.toNat)).length = s.txlen.toNat - s.txi.toNat := by
    simp [State.memReadTx]
  rw [List.length_drop, dataBits_length, hread] at hbits
  rw [State.remaining, dataSymbols_eq_map, ← List.map_drop, waveform_append, List.length_append,
    waveform_reset_length]
  omega

/-- R118: no transmission of the block has more cycles left than the longest flush has. -/
theorem State.Inv.cyclesLeft_le {s : State} (h : s.Inv) (hm : s.mode.transmitting = true) : s.cyclesLeft ≤ 129824 := by
  rw [cyclesLeft_of_transmitting hm]
  cases hmode : s.mode with
  | unbound | idle => rw [hmode] at hm; cases hm
  | latch =>
    have htmr : s.tmr.toNat < 800 := h.latch_timer hmode
    rw [cyclesAfterPhase_of_latch hmode]
    omega
  | sending =>
    have hgap : Config.cycReset = 800 := rfl
    have hlen : s.txlen.toNat = 768 := congrArg BitVec.toNat (h.length hm)
    have hwave := waveform_remaining_length_le s
    rw [waveform_remaining_length (h.cursor hmode)] at hwave
    cases hp : s.phase with
    | hi =>
      have htmr := h.high_timer hmode hp
      rw [cyclesAfterPhase_of_high hmode hp]
      omega
    | lo =>
      have htmr := h.low_timer hmode hp
      rw [cyclesAfterPhase_of_low hmode hp]
      omega

/-! ### What an edge does not read (R122, R52) -/

/-- The same block with what the host and the pixel commands write put in place of its own. -/
def State.withOutside (s : State) (ie : Bool) (m : Memory) (v : Byte) (rest : List Stimulus) : State :=
  { s with ieHost := ie, fb := m, bright := v, stimuli := rest }

section
variable (s : State) (ie : Bool) (m : Memory) (v : Byte) (rest : List Stimulus)

theorem receiveFrame_withOutside :
    receiveFrame (s.withOutside ie m v rest) = (receiveFrame s).withOutside ie m v rest := by
  rw [receiveFrame, receiveFrame, apply_ite (State.withOutside · ie m v rest)]
  rfl

theorem advanceCursor_withOutside :
    advanceCursor (s.withOutside ie m v rest) = (advanceCursor s).withOutside ie m v rest := by
  rw [advanceCursor, advanceCursor, apply_ite (State.withOutside · ie m v rest)]
  rfl

theorem startTransmit_withOutside (n : BitVec 16) :
    startTransmit n (s.withOutside ie m v rest) = (startTransmit n s).withOutside ie m v rest := by
  rw [startTransmit, startTransmit, apply_ite (State.withOutside · ie m v rest)]
  rfl

theorem nextBit_withOutside : nextBit (s.withOutside ie m v rest) = (nextBit s).withOutside ie m v rest := by
  rw [nextBit_eq, nextBit_eq, advanceCursor_withOutside, apply_ite (State.withOutside · ie m v rest)]
  rfl

theorem endLatch_withOutside : endLatch (s.withOutside ie m v rest) = (endLatch s).withOutside ie m v rest :=
  receiveFrame_withOutside { s with mode := .idle, wire := s.wire ++ [Sym.reset] } ie m v rest

theorem waitBusy_withOutside : waitBusy (s.withOutside ie m v rest) = (waitBusy s).withOutside ie m v rest := by
  obtain ⟨hb, he⟩ | ⟨hb, hp, he⟩ | ⟨hb, hne, he⟩ := waitBusy_cases s <;> rw [he]
  · exact if_pos hb
  · rw [← startTransmit_withOutside]
    exact (if_neg (ne_of_eq_of_ne hb Nat.one_ne_zero)).trans (if_pos ⟨hb, hp⟩)
  · exact (if_neg hb).trans (if_neg hne)

theorem advance_withOutside : advance (s.withOutside ie m v rest) = (advance s).withOutside ie m v rest := by
  obtain ⟨hm, he⟩ | ⟨hm, ht, he⟩ | ⟨hm, ht, hp, he⟩ | ⟨hm, ht, hp, he⟩ | ⟨hm, ht, he⟩ := advance_cases s <;> rw [he]
  · rw [← waitBusy_withOutside]
    cases h : s.mode with
    | unbound | idle => simp only [advance, State.withOutside, h]
    | sending | latch => rw [h] at hm; cases hm
  · exact advance_of_counting hm ht
  · exact advance_of_highDone hm hp ht
  · rw [← nextBit_withOutside]
    exact advance_of_lowDone hm hp ht
  · rw [← endLatch_withOutside]
    exact advance_of_latchDone hm ht

theorem clockEdges_withOutside (k : Nat) :
    clockEdges k (s.withOutside ie m v rest) = (clockEdges k s).withOutside ie m v rest := by
  induction k generalizing s with
  | zero => rfl
  | succ k ih =>
    have hedge : clockEdge (s.withOutside ie m v rest) = (clockEdge s).withOutside ie m v rest :=
      congrArg Sys2Proof.Machine.observe (advance_withOutside s ie m v rest)
    rw [clockEdges, clockEdges, hedge, ih]

end

/-- What no edge writes, no number of edges does. -/
theorem clockEdges_keeps {α : Type} (f : State → α) (hf : ∀ s, f (clockEdge s) = f s) (k : Nat) (s : State) :
    f (clockEdges k s) = f s := by
  induction k generalizing s with
  | zero => rfl
  | succ k ih => exact (ih (clockEdge s)).trans (hf s)

theorem clockEdges_with_stimuli (k : Nat) (s : State) (rest : List Stimulus) :
    clockEdges k { s with stimuli := rest } = { clockEdges k s with stimuli := rest } := by
  have h := clockEdges_withOutside s s.ieHost s.fb s.bright rest k
  rw [State.withOutside, State.withOutside] at h
  rw [h, ← clockEdges_keeps State.ieHost clockEdge_ieHost k s, ← clockEdges_keeps State.fb clockEdge_fb k s,
    ← clockEdges_keeps State.bright clockEdge_bright k s]

/-! ### A held offer during a transmission (R152) -/

theorem step_of_heldCommand {s : State} {w : CmdWord} {rest : List Stimulus} (hm : s.mode.transmitting = true)
    (hs : s.stimuli = .command w :: rest) : step s = .next (clockEdge s) := by
  simp [step, hs, State.not_cmdReady_of_transmitting hm]

theorem step_of_heldEdge {s : State} {w : CmdWord} {rest : List Stimulus} (hm : s.mode.transmitting = true)
    (hs : s.stimuli = .edge false true w :: rest) : step s = .next (clockEdge { s with stimuli := rest }) := by
  have hbusy : State.cmdReady { s with stimuli := rest } = false := State.not_cmdReady_of_transmitting hm
  simp [step, hs, portEdge, hbusy]

/-- A command of level S stays at the head of the stimuli. -/
theorem run_heldCommand {k : Nat} {s : State} {w : CmdWord} {rest : List Stimulus}
    (hb : ∀ j < k, (clockEdges j s).mode.transmitting = true) (hs : s.stimuli = .command w :: rest) :
    Host.Core.run Sys2Proof.core k s = .next (clockEdges k s) := by
  induction k generalizing s with
  | zero => rfl
  | succ k ih =>
    have hm : s.mode.transmitting = true := hb 0 k.succ_pos
    rw [run_succ_of_next (step_of_heldCommand hm hs)]
    exact ih (fun j hj => hb (j + 1) (Nat.succ_lt_succ hj)) ((clockEdge_stimuli s).trans hs)

/-- At level C each edge takes one offer of the word. -/
theorem run_heldEdges {k : Nat} {s : State} {w : CmdWord} {rest : List Stimulus}
    (hb : ∀ j < k, (clockEdges j s).mode.transmitting = true)
    (hs : s.stimuli = List.replicate k (Stimulus.edge false true w) ++ rest) :
    Host.Core.run Sys2Proof.core k s = .next { clockEdges k s with stimuli := rest } := by
  induction k generalizing s with
  | zero =>
    have hself : { s with stimuli := rest } = s := by rw [← show s.stimuli = rest from hs]
    exact congrArg Host.Outcome.next hself.symm
  | succ k ih =>
    have hm : s.mode.transmitting = true := hb 0 k.succ_pos
    have hstep : step s = .next { clockEdge s with stimuli := List.replicate k (Stimulus.edge false true w) ++ rest } :=
      (step_of_heldEdge hm hs).trans (congrArg _ (clockEdges_with_stimuli 1 s _))
    rw [run_succ_of_next hstep, ih ?_ rfl, clockEdges_with_stimuli]
    · rfl
    · intro j hj
      rw [clockEdges_with_stimuli]
      exact hb (j + 1) (Nat.succ_lt_succ hj)

end Sys2Proof.Machine

open Sys2Proof Sys2Proof.Machine

/-- Settles O9: the accepting edge starts the transmission of the scaled copy at its first bit. -/
theorem edgeStartsTheFrame : Obligations.EdgeStartsTheFrame := by
  unfold Obligations.EdgeStartsTheFrame
  intro s w rest hs hidle hw
  have hbyte := copyScaled_txByte { s with stimuli := rest } (show 0 < 768 by decide)
  refine ⟨_, step_of_showEdge hidle hs hw, ?_⟩
  rw [startTransmit_eq frameLength_ne_zero]
  refine ⟨rfl, rfl, rfl, rfl, rfl, rfl, ?_, rfl, rfl, fun a ha => ?_, rfl, rfl, rfl, rfl, rfl, rfl, rfl⟩
  · exact congrArg (fun b : Byte => timerFor (cycHigh (b.getLsbD 7))) hbyte
  · exact (Memory.read_ofFn _ a).trans (if_pos ha)

/-- Settles O37: the frame is the data symbols, which end in one `RESET`. -/
theorem transmitAppendsItsSymbols : Obligations.TransmitAppendsItsSymbols := by
  unfold Obligations.TransmitAppendsItsSymbols
  intro n s hn
  have hwire : (sdTransmit n s).wire = s.wire ++ dataSymbols ((List.range n.toNat).map s.txByte) ++ [Sym.reset] := by
    rw [sdTransmit_wire hn, transmitSymbols_of_ne_nil (memReadTx_ne_nil hn s), State.memReadTx_zero,
      List.append_assoc]
  exact ⟨_, hwire, by simp, rfl, by simp, by simp, by simp, by simp, by simp⟩

/-- Settles O43: the frame followed bit by bit from the accepting edge to the end of the latch gap. -/
theorem clockedMachineRefinesTransmit : Obligations.ClockedMachineRefinesTransmit :=
  fun _ s hn => clockEdges_transmission hn s

/-- Settles O45: the data are bits, and each bit is one high run. -/
theorem waveformReadsBackAsItsSymbols : Obligations.WaveformReadsBackAsItsSymbols := by
  unfold Obligations.WaveformReadsBackAsItsSymbols
  intro t ht
  rw [transmitSymbols_of_ne_nil ht, dataSymbols_eq_map]
  exact readTrace_waveform (dataBits t) 0

/-- Settles O46: the bounds are those of no one-bit and of one-bits only. -/
theorem durationOfATransmission : Obligations.DurationOfATransmission := by
  unfold Obligations.DurationOfATransmission
  intro t ht
  have hones := onesIn_le t
  refine ⟨waveform_transmitSymbols_length ht, hones, durationCycles_eq t, nominalNs_transmitSymbols ht, fun hlen => ?_⟩
  rw [durationCycles_eq]
  omega

/-- Settles O47: the cycles left are at most those of the longest flush. -/
theorem transmissionAlwaysEnds : Obligations.TransmissionAlwaysEnds := by
  unfold Obligations.TransmissionAlwaysEnds
  intro s h hm
  exact ⟨s.cyclesLeft, h.cyclesLeft_le hm, (clockEdges_cyclesLeft h (.inl hm) rfl).1.1⟩

/-- Settles O48: the block transmits until the cycles left are over, so the offer is held till then. -/
theorem heldOfferReachesAReadyBlock : Obligations.HeldOfferReachesAReadyBlock := by
  unfold Obligations.HeldOfferReachesAReadyBlock
  intro s w rest h hm hs
  obtain ⟨hidle, hbefore⟩ := clockEdges_cyclesLeft h (.inl hm) rfl
  have hle := h.cyclesLeft_le hm
  have hfb := clockEdges_keeps State.fb clockEdge_fb s.cyclesLeft s
  have hbright := clockEdges_keeps State.bright clockEdge_bright s.cyclesLeft s
  have hpin := clockEdges_keeps State.pin clockEdge_pin s.cyclesLeft s
  obtain hs | hs := hs
  · have hoffer := (clockEdges_keeps State.stimuli clockEdge_stimuli s.cyclesLeft s).trans hs
    exact ⟨_, _, hle, run_heldCommand hbefore hs, hidle.cmdReady, ⟨rest, .inl hoffer⟩, hfb, hbright, hpin⟩
  · have hsplit : 129825 = s.cyclesLeft + (129824 - s.cyclesLeft + 1) := by omega
    rw [hsplit, List.replicate_add, List.append_assoc] at hs
    exact ⟨_, _, hle, run_heldEdges hbefore hs, hidle.cmdReady, ⟨_, .inr rfl⟩, hfb, hbright, hpin⟩

/-- Settles O56: no edge reads any of the three, with a wait pending or not, and none writes what the host offers
next. -/
theorem serializerIgnoresHostAndFramebuffer : Obligations.SerializerIgnoresHostAndFramebuffer := by
  unfold Obligations.SerializerIgnoresHostAndFramebuffer
  intro k s ie m v _
  have hstimuli := clockEdges_keeps State.stimuli clockEdge_stimuli k s
  exact (clockEdges_withOutside s ie m v s.stimuli k).trans (by rw [State.withOutside, ← hstimuli])

/-- Settles O20. -/
theorem initializeBindsSupportedPins : Obligations.InitializeBindsSupportedPins := by
  unfold Obligations.InitializeBindsSupportedPins
  intro supported pin s
  exact ⟨fun h => if_neg (by simp [h]), fun h => ⟨_, if_pos h, rfl⟩⟩

/-- Settles O38. -/
theorem zeroLengthTransmitIsANoOp : Obligations.ZeroLengthTransmitIsANoOp := fun _ => ⟨if_pos rfl, if_pos rfl, rfl⟩

/-- Settles O39. -/
theorem timerCountsDown : Obligations.TimerCountsDown := fun _ => advance_of_counting

/-- Settles O40. -/
theorem highPhaseEndsInLow : Obligations.HighPhaseEndsInLow := fun _ => advance_of_highDone

/-- Settles O41: `nextBit` with the cursor's two fields written out. -/
theorem lowPhaseAdvancesTheCursor : Obligations.LowPhaseAdvancesTheCursor := by
  unfold Obligations.LowPhaseAdvancesTheCursor
  intro s hm hp ht
  rw [advance_of_lowDone hm hp ht, nextBit_eq, advanceCursor_eq]
  exact ⟨fun hend => if_pos hend, fun hne => if_neg hne⟩

/-- Settles O42: the latch gap's end, and the receiver's update at it. -/
theorem latchEndsInIdle : Obligations.LatchEndsInIdle := by
  unfold Obligations.LatchEndsInIdle
  intro s hm ht
  rw [advance_of_latchDone hm ht]
  refine ⟨by simp, by simp, by simp, by simp [State.irqInhibit], ?_, endLatch_leds, by simp, by simp, by simp⟩
  simp [State.cmdReady_iff]

/-- Settles O49, count by count. -/
theorem cycleCountsFollowTheNominalTimes : Obligations.CycleCountsFollowTheNominalTimes := by
  unfold Obligations.CycleCountsFollowTheNominalTimes
  refine ⟨fun c n h => ?_, by decide, by decide, by unfold phasesWithin; decide⟩
  simp only [List.mem_cons, Prod.mk.injEq, List.not_mem_nil, or_false] at h
  obtain ⟨rfl, rfl⟩ | ⟨rfl, rfl⟩ | ⟨rfl, rfl⟩ | ⟨rfl, rfl⟩ := h <;> decide

end

section
/-! PROOFS. The panel controller (41_panel_controller.md): the scaler as arithmetic on numbers (R149 to R151); what a
flush leaves in `TXBUF`, on `WIRE` and on the LEDs (R148); the commands that write `BRIGHT` and `FB` (R142 to R147);
what a busy or an unbound block does with a command (R152). -/

namespace Sys2Proof.Machine

/-! ### The scaler as numbers (R149, R151) -/

theorem toNat_le_255 (v : Byte) : v.toNat ≤ 255 := Nat.le_of_lt_succ v.isLt

theorem ne_255_iff_toNat_le (s : Byte) : s ≠ 255#8 ↔ s.toNat ≤ 254 := by bv_omega

/-- The bound on the product of R151. -/
theorem toNat_mul_le {s : Byte} (hs : s ≠ 255#8) (v : Byte) : v.toNat * s.toNat ≤ 64770 :=
  Nat.mul_le_mul (toNat_le_255 v) ((ne_255_iff_toNat_le s).mp hs)

/-- R151: 16 bits hold the product of two bytes. -/
theorem scaleProduct_toNat (v s : Byte) : (scaleProduct v s).toNat = v.toNat * s.toNat := by
  have hlt : v.toNat * s.toNat < 2 ^ 16 :=
    Nat.lt_of_le_of_lt (Nat.mul_le_mul (toNat_le_255 v) (toNat_le_255 s)) (by decide)
  have hv : v.toNat < 2 ^ 16 := Nat.lt_trans v.isLt (by decide)
  have hs : s.toNat < 2 ^ 16 := Nat.lt_trans s.isLt (by decide)
  rw [scaleProduct, BitVec.toNat_mul, BitVec.toNat_setWidth, BitVec.toNat_setWidth, Nat.mod_eq_of_lt hv,
    Nat.mod_eq_of_lt hs, Nat.mod_eq_of_lt hlt]

@[simp] theorem scale_full (v : Byte) : scale v 255#8 = v := if_pos rfl

/-- R149 below full brightness. -/
theorem scale_toNat {s : Byte} (hs : s ≠ 255#8) (v : Byte) : (scale v s).toNat = v.toNat * s.toNat / 256 := by
  have hlt : v.toNat * s.toNat / 256 < 2 ^ 8 := by
    have := toNat_mul_le hs v
    omega
  rw [scale, if_neg hs, BitVec.extractLsb'_toNat, scaleProduct_toNat, Nat.shiftRight_eq_div_pow,
    Nat.mod_eq_of_lt hlt]

theorem scale_toNat_le_253 {s : Byte} (hs : s ≠ 255#8) (v : Byte) : (scale v s).toNat ≤ 253 := by
  have hprod := toNat_mul_le hs v
  rw [scale_toNat hs]
  omega

/-- R150 (d): below full brightness a byte that is not 0 loses something. -/
theorem scale_toNat_lt {v s : Byte} (hs : s ≠ 255#8) (hv : 1 ≤ v.toNat) : (scale v s).toNat < v.toNat := by
  have hle := (ne_255_iff_toNat_le s).mp hs
  rw [scale_toNat hs]
  exact Nat.div_lt_of_lt_mul (Nat.mul_comm 256 _ ▸ Nat.mul_lt_mul_of_pos_left (by omega) hv)

theorem scale_toNat_le_self (v s : Byte) : (scale v s).toNat ≤ v.toNat := by
  by_cases hs : s = 255#8
  · rw [hs, scale_full]
  · rw [scale_toNat hs]
    have hle := (ne_255_iff_toNat_le s).mp hs
    exact Nat.div_le_of_le_mul (Nat.mul_comm 256 _ ▸ Nat.mul_le_mul_left _ (by omega))

theorem scale_zero_left (s : Byte) : scale 0#8 s = 0#8 :=
  BitVec.eq_of_toNat_eq (Nat.le_zero.mp (scale_toNat_le_self 0#8 s))

theorem scale_zero_right (v : Byte) : scale v 0#8 = 0#8 :=
  BitVec.eq_of_toNat_eq (by rw [scale_toNat (by decide)]; simp)

/-- R150 (e), in the byte. -/
theorem scale_mono_left {v v' : Byte} (hv : v.toNat ≤ v'.toNat) (s : Byte) :
    (scale v s).toNat ≤ (scale v' s).toNat := by
  by_cases hs : s = 255#8
  · rwa [hs, scale_full, scale_full]
  · rw [scale_toNat hs, scale_toNat hs]
    exact Nat.div_le_div_right (Nat.mul_le_mul_right _ hv)

/-- R150 (e), in the brightness: at 255 nothing is lost. -/
theorem scale_mono_right {s s' : Byte} (hle : s.toNat ≤ s'.toNat) (v : Byte) :
    (scale v s).toNat ≤ (scale v s').toNat := by
  by_cases hs' : s' = 255#8
  · rw [hs', scale_full]
    exact scale_toNat_le_self v s
  · have hs : s ≠ 255#8 := (ne_255_iff_toNat_le s).mpr (hle.trans ((ne_255_iff_toNat_le s').mp hs'))
    rw [scale_toNat hs, scale_toNat hs']
    exact Nat.div_le_div_right (Nat.mul_le_mul_left _ hle)

/-! ### What a flush sends and shows (R148, R26) -/

/-- What `SHOW` puts on `WIRE`, from `FB` and `BRIGHT`. -/
theorem flushSymbols_eq (s : State) :
    flushSymbols s = dataSymbols ((List.range 768).map fun a => scale (s.fbByte a) s.bright) ++ [.reset] := by
  have hbytes : (copyScaled s).memReadTx 0 768 = (List.range 768).map fun a => scale (s.fbByte a) s.bright := by
    rw [State.memReadTx_zero]
    exact List.map_congr_left fun a ha => copyScaled_txByte s (List.mem_range.mp ha)
  rw [flushSymbols, hbytes, transmitSymbols_of_ne_nil (by simp)]

theorem sdTransmit_txByte (n : BitVec 16) (s : State) (a : Nat) : (sdTransmit n s).txByte a = s.txByte a := by
  rw [State.txByte, State.txByte, sdTransmit_txbuf, sdTransmit_epoch]

theorem flushed_txByte (s : State) {a : Nat} (ha : a < 768) : (flushed s).txByte a = scale (s.fbByte a) s.bright :=
  (sdTransmit_txByte _ _ a).trans (copyScaled_txByte s ha)

theorem flushed_fbByte (s : State) (a : Nat) : (flushed s).fbByte a = s.fbByte a := by
  rw [State.fbByte, State.fbByte, sdTransmit_fb, sdTransmit_epoch, copyScaled_fb, copyScaled_epoch]

/-- R26: after a flush the line has been low for `T_RESET` (R106), so the next one is displayed (decision D20). -/
theorem flushed_flushed_leds (s : State) : (flushed (flushed s)).leds = ledsOfTxbuf (flushed (flushed s)) := by
  have hlow : Config.cycReset ≤ (copyScaled (flushed s)).lowCyc := by simp
  rw [sdTransmit_leds hlow, ledsOfTxbuf, ledsOfTxbuf]
  simp only [sdTransmit_txByte]

theorem flushed_idleReady {s : State} (h : s.idleReady) : (flushed s).idleReady :=
  (CommandEffect.showFrame h).idleReady h.cmdReady

/-! ### Commands one after another (R50) -/

theorem issueAll_cons {i : Instr} {s t : State} (h : CommandEffect s i t) (hr : s.cmdReady = true) (is : List Instr) :
    issueAll (i :: is) s = issueAll is t := by
  rw [issueAll, h.exec_eq hr]

/-! ### The bounds check (R145) -/

theorem inBounds_iff (x y : Int) : inBounds x y = true ↔ 0 ≤ x ∧ x < 32 ∧ 0 ≤ y ∧ y < 8 := by
  simp [inBounds, and_assoc]

/-! ### A word offered during a transmission (R152) -/

theorem step_of_edgeDuringFrame {s : State} {valid : Bool} {w : CmdWord} {rest : List Stimulus}
    (hm : s.mode.transmitting = true) (hs : s.stimuli = .edge false valid w :: rest) :
    step s = .next (clockEdge { s with stimuli := rest }) := by
  have hbusy : State.cmdReady { s with stimuli := rest } = false := State.not_cmdReady_of_transmitting hm
  simp [step, hs, portEdge, hbusy]

/-! ### A command before construction (R152) -/

theorem exec_of_unbound {i : Instr} {s : State} (hm : s.mode = .unbound) (hb : s.busy = 0)
    (hi : ∀ pin, i ≠ .panelInit pin) : exec i s = .refused (.notConstructed i.mnemonic) := by
  cases i with
  | panelInit pin => exact absurd rfl (hi pin)
  | setBrightness level => rw [exec, execSetBrightness, whenConstructed_of_unbound hm hb, Instr.mnemonic]
  | clear => rw [exec, execClear, whenConstructed_of_unbound hm hb, Instr.mnemonic]
  | drawPixel x y r g b => rw [exec, execDrawPixel, whenConstructed_of_unbound hm hb, Instr.mnemonic]
  | drawPixelPacked x y color => rw [exec, execDrawPixelPacked, whenConstructed_of_unbound hm hb, Instr.mnemonic]
  | showFrame => rw [exec, execShow, whenConstructed_of_unbound hm hb, Instr.mnemonic]

end Sys2Proof.Machine

open Sys2Proof Sys2Proof.Machine

/-- Settles O12: the block is not ready, so the step is a clock edge, which touches none of the four nor the
stimuli. -/
theorem offeredCommandWaitsDuringFrame : Obligations.OfferedCommandWaitsDuringFrame := by
  unfold Obligations.OfferedCommandWaitsDuringFrame
  intro s w rest hm
  refine ⟨fun hs => ?_, fun valid hs => ?_⟩
  · exact ⟨_, step_of_heldCommand hm hs, rfl, (clockEdge_stimuli s).trans hs, clockEdge_fb s, clockEdge_bright s,
      clockEdge_pin s, clockEdge_txbuf s⟩
  · exact ⟨_, step_of_edgeDuringFrame hm hs, rfl, clockEdge_fb _, clockEdge_bright _, clockEdge_pin _,
      clockEdge_txbuf _⟩

/-- Settles O24: in bounds `plot` writes one triple, out of bounds it is the identity. -/
theorem drawPixelStoresOneTriple : Obligations.DrawPixelStoresOneTriple := by
  unfold Obligations.DrawPixelStoresOneTriple
  intro s x y r g b hidle
  have hexec := (CommandEffect.drawPixel x y r g b hidle).exec_eq hidle.cmdReady
  rw [← inBounds_iff]
  refine ⟨fun hin => ⟨_, hexec, ?_⟩, fun hout => ?_⟩
  · simp only [plot_of_inBounds hin]
    refine ⟨by simp, by simp, by simp, fun a ha => ?_⟩
    rw [if_neg (by omega), if_neg (by omega), if_neg (by omega)]
  · rwa [plot_of_not_inBounds (Bool.eq_false_iff.mpr hout)] at hexec

/-- Settles O30: the product is exact in 16 bits, and its high byte is the quotient by 256. -/
theorem scaleIsTheTruncatedProduct : Obligations.ScaleIsTheTruncatedProduct := by
  unfold Obligations.ScaleIsTheTruncatedProduct
  refine fun v s => ⟨?_, fun hs => ⟨scaleProduct_toNat v s, toNat_mul_le hs v, scale_toNat_le_253 hs v⟩⟩
  split
  · next hs => rw [hs, scale_full]
  · next hs => exact scale_toNat hs v

/-- Settles O31, property by property, from the scaled byte as a number. -/
theorem scaleProperties : Obligations.ScaleProperties := by
  unfold Obligations.ScaleProperties
  have hne {s : Byte} (hs : s.toNat < 255) : s ≠ 255#8 := (ne_255_iff_toNat_le s).mpr (Nat.le_of_lt_succ hs)
  refine ⟨scale_full, scale_zero_right, scale_zero_left,
    fun v s hs hv => Nat.le_sub_one_of_lt (scale_toNat_lt (hne hs) hv), fun s hpos hs => ?_, fun v s hs => ?_,
    fun v v' s hv => scale_mono_left hv s, fun v s s' hle => scale_mono_right hle v, fun s hs => ?_⟩
  · rw [scale_toNat ((ne_255_iff_toNat_le s).mpr hs), show (255#8).toNat = 255 from rfl]
    omega
  · exact Nat.ne_of_lt (Nat.lt_succ_of_le (scale_toNat_le_253 (hne hs) v))
  · exact BitVec.eq_of_toNat_eq (Nat.lt_one_iff.mp (scale_toNat_lt (v := 1#8) (hne hs) (by decide)))

/-- Settles O32: `SHOW` transmits the scaled copy and leaves the rest alone. -/
theorem showSendsTheScaledCopy : Obligations.ShowSendsTheScaledCopy := by
  unfold Obligations.ShowSendsTheScaledCopy
  intro s hidle
  have hidle' := flushed_idleReady hidle
  have hwire : (flushed s).wire =
      s.wire ++ dataSymbols ((List.range 768).map fun a => scale (s.fbByte a) s.bright) ++ [.reset] := by
    rw [flushed_wire, flushSymbols_eq, List.append_assoc]
  exact ⟨flushed s, exec_showFrame_of_idleReady hidle, fun a => by simp, hwire, by simp, by simp, by simp, hidle'.1,
    by simp, by simp, by simp, by simp, by simp, hidle'.cmdReady, by simp [State.irqInhibit]⟩

/-- Settles O34: the second flush makes the same copy, and the first one's `RESET` is the low time it needs. -/
theorem twoShowsSendTheSameFrame : Obligations.TwoShowsSendTheSameFrame := by
  unfold Obligations.TwoShowsSendTheSameFrame
  intro s hidle
  have htxbuf : (flushed (flushed s)).txbuf = (flushed s).txbuf := by
    rw [sdTransmit_txbuf, sdTransmit_txbuf, copyScaled_flushed_txbuf]
  have hwire : (flushed (flushed s)).wire = s.wire ++ flushSymbols s ++ flushSymbols s := by
    rw [flushed_wire (flushed s), flushed_wire s, flushSymbols_flushed]
  exact ⟨flushed s, flushed (flushed s), flushSymbols s, exec_showFrame_of_idleReady hidle,
    exec_showFrame_of_idleReady (flushed_idleReady hidle), flushSymbols_length s, flushed_wire s, hwire, htxbuf,
    by simp, flushed_flushed_leds s⟩

/-- Settles O35: no flush writes `FB`, and at 255 the scaler is the identity. -/
theorem brightnessIsNonDestructive : Obligations.BrightnessIsNonDestructive := by
  unfold Obligations.BrightnessIsNonDestructive
  intro s level hidle
  have hdim : State.idleReady { s with bright := level } := hidle
  have hflushed := flushed_idleReady hdim
  have hfull : State.idleReady { flushed { s with bright := level } with bright := 255#8 } := hflushed
  refine ⟨flushed { flushed { s with bright := level } with bright := 255#8 }, ?_, by simp, fun a ha => ?_⟩
  · rw [issueAll_cons (.setBrightness level hidle) hidle.cmdReady, issueAll_cons (.showFrame hdim) hdim.cmdReady,
      issueAll_cons (.setBrightness 255#8 hflushed) hflushed.cmdReady, issueAll_cons (.showFrame hfull) hfull.cmdReady,
      issueAll]
  · rw [flushed_txByte _ ha, scale_full]
    exact flushed_fbByte { s with bright := level } a

/-- Settles O11: none of the five is `PANEL_INIT`. -/
theorem commandsBeforeConstructionAreRefused : Obligations.CommandsBeforeConstructionAreRefused := by
  unfold Obligations.CommandsBeforeConstructionAreRefused
  intro s hm hb
  have hrefused {i : Instr} (hi : ∀ pin, i ≠ .panelInit pin) := exec_of_unbound hm hb hi
  exact ⟨fun _ => hrefused nofun, hrefused nofun, fun _ _ _ _ _ => hrefused nofun, fun _ _ _ => hrefused nofun,
    hrefused nofun⟩

/-- Settles O22. -/
theorem setBrightnessStoresTheLevel : Obligations.SetBrightnessStoresTheLevel :=
  fun _ level hidle => (CommandEffect.setBrightness level hidle).exec_eq hidle.cmdReady

/-- Settles O23: the whole buffer is filled. -/
theorem clearZeroesTheFramebuffer : Obligations.ClearZeroesTheFramebuffer :=
  fun _ hidle => ⟨_, (CommandEffect.clear hidle).exec_eq hidle.cmdReady, Memory.read_fill 0#8⟩

/-- Settles O25: the three slices are the channels at the layout of log entry 11. -/
theorem packedPixelIsThePixelOfItsChannels : Obligations.PackedPixelIsThePixelOfItsChannels :=
  fun _ x y color hidle =>
    ⟨_, (CommandEffect.drawPixelPacked x y color hidle).exec_eq hidle.cmdReady,
      (CommandEffect.drawPixel x y _ _ _ hidle).exec_eq hidle.cmdReady, rfl⟩

end

section
/-! PROOFS. The geometry map (42_geometry_mapping.md): the tile, the column and the row are read back from an index, so
`Map` has R182's inverse; one more tile to the right is 64 more (R186). A pixel command therefore writes the triple of
its own LED and of no other (R147). -/

namespace Sys2Proof.Machine

/-! ### The parts of an index (R180) -/

theorem withinTile_eq (lx ly : Nat) : withinTile lx ly = 8 * lx + if lx % 2 = 1 then 7 - ly else ly := by
  rw [withinTile, Nat.mul_comm lx]
  split <;> rfl

theorem localY_lt (y : Nat) : localY y < 8 := Nat.mod_lt y (by decide)

theorem localY_of_lt {y : Nat} (hy : y < 8) : localY y = y := Nat.mod_eq_of_lt hy

theorem withinTile_local_lt (x y : Nat) : withinTile (localX x) (localY y) < 64 :=
  withinTile_lt (Nat.mod_lt x (by decide)) (localY_lt y)

theorem map_eq (x y : Nat) : map x y = 64 * (x / 8) + withinTile (localX x) (localY y) := by
  rw [Nat.mul_comm]; rfl

theorem map_div_tile (x y : Nat) : map x y / 64 = x / 8 := by
  have hw := withinTile_local_lt x y
  rw [map_eq]
  omega

theorem map_mod_tile (x y : Nat) : map x y % 64 = withinTile (localX x) (localY y) := by
  rw [map_eq, Nat.mul_add_mod, Nat.mod_eq_of_lt (withinTile_local_lt x y)]

theorem withinTile_div_column {lx ly : Nat} (hy : ly < 8) : withinTile lx ly / 8 = lx := by
  rw [withinTile_eq]
  split <;> omega

theorem withinTile_mod_column {lx ly : Nat} (hy : ly < 8) :
    withinTile lx ly % 8 = if lx % 2 = 1 then 7 - ly else ly := by
  rw [withinTile_eq, Nat.mul_add_mod]
  split <;> omega

/-! ### The inverse (R182) -/

theorem unmapX_map (x y : Nat) : unmapX (map x y) = x := by
  rw [unmapX, map_div_tile, map_mod_tile, withinTile_div_column (localY_lt y)]
  exact Nat.div_add_mod x 8

theorem unmapY_map {y : Nat} (hy : y < 8) (x : Nat) : unmapY (map x y) = y := by
  rw [unmapY, map_mod_tile, localY_of_lt hy, withinTile_div_column hy, withinTile_mod_column hy]
  rcases Nat.mod_two_eq_zero_or_one (localX x) with heven | hodd
  · rw [if_pos heven, if_neg (by omega)]
  · rw [if_neg (by omega), if_pos hodd]
    omega

theorem unmapX_lt {p : Nat} (hp : p < 256) : unmapX p < 32 := by
  unfold unmapX
  omega

theorem unmapY_lt (p : Nat) : unmapY p < 8 := by
  unfold unmapY
  split <;> omega

theorem unmapX_div_tile (p : Nat) : unmapX p / 8 = p / 64 := by
  unfold unmapX
  omega

theorem localX_unmapX (p : Nat) : localX (unmapX p) = p % 64 / 8 := by
  rw [localX, unmapX, Nat.mul_add_mod]
  omega

/-- Turning an odd column round twice leaves it as it was. -/
theorem map_unmap (p : Nat) : map (unmapX p) (unmapY p) = p := by
  rw [map_eq, unmapX_div_tile, localX_unmapX, localY_of_lt (unmapY_lt p), withinTile_eq, unmapY]
  rcases Nat.mod_two_eq_zero_or_one (p % 64 / 8) with heven | hodd
  · rw [if_neg (by omega), if_pos heven]
    omega
  · rw [if_pos hodd, if_neg (by omega)]
    omega

theorem map_ne_map {x y x' y' : Nat} (hy : y < 8) (hy' : y' < 8) (hne : (x, y) ≠ (x', y')) :
    map x' y' ≠ map x y := by
  intro h
  have hx : x = x' := by rw [← unmapX_map x y, ← h, unmapX_map]
  have hrow : y = y' := by rw [← unmapY_map hy x, ← h, unmapY_map hy']
  exact hne (Prod.ext hx hrow)

/-! ### The tiles (R186) -/

theorem map_add_tile (x y t : Nat) : map (x + 8 * t) y = map x y + 64 * t := by
  have htile : (x + 8 * t) / 8 = x / 8 + t := Nat.add_mul_div_left x t (by decide)
  have hcolumn : localX (x + 8 * t) = localX x := Nat.add_mul_mod_self_left x 8 t
  rw [map_eq, map_eq, htile, hcolumn]
  omega

/-! ### The triples after a pixel command (R41, R147) -/

theorem State.storedTriple_eq (s : State) (p : Nat) :
    s.storedTriple p = [s.fbByte (3 * p), s.fbByte (3 * p + 1), s.fbByte (3 * p + 2)] := rfl

theorem storedTriple_plot_same {x y : Int} (h : inBounds x y = true) (s : State) (r g b : Byte) :
    State.storedTriple { s with fb := plot s.fb x y r g b } (map x.toNat y.toNat) = [g, r, b] := by
  simp [State.storedTriple_eq, State.fbByte, plot_of_inBounds h]

theorem fbByte_plot_of_ne {x y : Int} {a : Nat} (ha : a / 3 ≠ map x.toNat y.toNat) (s : State) (r g b : Byte) :
    State.fbByte { s with fb := plot s.fb x y r g b } a = s.fbByte a := by
  cases h : inBounds x y with
  | false => rw [plot_of_not_inBounds h]
  | true =>
    unfold State.fbByte
    rw [plot_of_inBounds h, if_neg (by omega), if_neg (by omega), if_neg (by omega)]

theorem storedTriple_plot_of_ne {x y : Int} {p : Nat} (hp : p ≠ map x.toNat y.toNat) (s : State) (r g b : Byte) :
    State.storedTriple { s with fb := plot s.fb x y r g b } p = s.storedTriple p := by
  rw [State.storedTriple_eq, State.storedTriple_eq, fbByte_plot_of_ne (by omega), fbByte_plot_of_ne (by omega),
    fbByte_plot_of_ne (by omega)]

end Sys2Proof.Machine

open Sys2Proof Sys2Proof.Machine

/-- Settles O27: the command plots one pixel, and `Map` sends the other coordinate to another LED. -/
theorem pixelWriteTouchesNoOtherLed : Obligations.PixelWriteTouchesNoOtherLed := by
  unfold Obligations.PixelWriteTouchesNoOtherLed
  intro s t x y x' y' r g b hidle hx hy _ hy' hne hexec
  have hin : inBounds x y = true := (inBounds_iff x y).mpr (by omega)
  have hother : map x' y' ≠ map (x : Int).toNat (y : Int).toNat := map_ne_map hy hy' hne
  cases commandEffect_of_exec hidle.cmdReady hexec with
  | drawPixel => exact ⟨storedTriple_plot_same hin s r g b, storedTriple_plot_of_ne hother s r g b⟩

/-- Settles O28: `unmapX` and `unmapY` undo `Map` and are undone by it. -/
theorem mapIsABijection : Obligations.MapIsABijection :=
  ⟨fun x hx _ hy => ⟨map_lt hx, unmapX_map x _, unmapY_map hy x⟩,
    fun p hp => ⟨unmapX_lt hp, unmapY_lt p, map_unmap p⟩⟩

/-- Settles O29: the table of tile 0 is computed, and a tile to the right is 64 more. -/
theorem mapIsTheTable : Obligations.MapIsTheTable :=
  ⟨by decide, fun t _ x _ y _ => map_add_tile x y t⟩

end

section
/-! PROOFS. The host's text layer (43_text_layer_pseudo_ops.md): which commands `DRAW_CHAR` and `DRAW_TEXT` expand into
(R191, R192), what a run of packed pixels of one colour leaves in `FB` (R195), and the count down of `x` (R196). -/

namespace Sys2Proof.Machine

/-! ### The commands of a character (R191) -/

theorem fitsI16_iff (v : Int) : fitsI16 v = true ↔ -32768 ≤ v ∧ v ≤ 32767 := by
  simp [fitsI16]

theorem mem_drawChar {glyph : Glyph} {ch : Char} {row col : Int} {color : Packed} {i : Instr} :
    i ∈ drawChar glyph ch row col color ↔
      ∃ gr gc : Nat, gr < 6 ∧ gc < 4 ∧ glyph ch gr gc = true ∧ -32768 ≤ col + gc ∧ col + gc ≤ 32767 ∧
        -32768 ≤ row + gr ∧ row + gr ≤ 32767 ∧ i = .drawPixelPacked (col + gc) (row + gr) color := by
  simp only [drawChar, List.mem_flatMap, List.mem_filterMap, List.mem_range, Option.ite_none_right_eq_some,
    Option.some.injEq, Bool.and_eq_true, fitsI16_iff, and_assoc, exists_and_left, eq_comm (b := i)]

/-- Two rows differ in `y`, and two columns of a row differ in `x`. -/
theorem drawChar_nodup (glyph : Glyph) (ch : Char) (row col : Int) (color : Packed) :
    (drawChar glyph ch row col color).Nodup := by
  refine List.nodup_flatMap.mpr ⟨fun gr _ => ?_, List.nodup_range.imp fun hne i hi hi' => hne ?_⟩
  · refine List.nodup_range.filterMap fun gc gc' i hi hi' => ?_
    simp only [Option.mem_def, Option.ite_none_right_eq_some, Option.some.injEq] at hi hi'
    have hx := (Instr.drawPixelPacked.inj (hi.2.trans hi'.2.symm)).1
    omega
  · simp only [List.mem_filterMap, Option.ite_none_right_eq_some, Option.some.injEq] at hi hi'
    obtain ⟨gc, -, -, hi⟩ := hi
    obtain ⟨gc', -, -, hi'⟩ := hi'
    have hy := (Instr.drawPixelPacked.inj (hi.trans hi'.symm)).2.1
    omega

/-- An unsupported character is blank (R190). -/
theorem hostGlyph_of_unsupported {ch : Char} (h : Config.fontSupports ch = false) (gr gc : Nat) :
    hostGlyph ch gr gc = false := by
  rw [hostGlyph, h, Bool.false_and]

/-! ### The commands of a string (R192) -/

theorem mem_drawText {glyph : Glyph} {text : List Char} {row col : Int} {color : Packed} {i : Instr} :
    i ∈ drawText glyph text row col color ↔
      ∃ (k : Nat) (ch : Char), text[k]? = some ch ∧ i ∈ drawChar glyph ch row (col + 5 * k) color := by
  induction text generalizing col with
  | nil => simp [drawText]
  | cons c rest ih =>
    have hshift (k : Nat) : col + 5 + 5 * (k : Int) = col + 5 * ((k + 1 : Nat) : Int) := by omega
    simp only [drawText, List.mem_append, ih, hshift]
    constructor
    · rintro (hfirst | ⟨k, ch, hk, hi⟩)
      · exact ⟨0, c, rfl, by simpa using hfirst⟩
      · exact ⟨k + 1, ch, hk, hi⟩
    · rintro ⟨_ | k, ch, hk, hi⟩
      · obtain rfl : c = ch := Option.some.inj hk
        exact .inl (by simpa using hi)
      · exact .inr ⟨k, ch, hk, hi⟩

theorem eq_packed_of_mem_drawText {glyph : Glyph} {text : List Char} {row col : Int} {color : Packed} {i : Instr}
    (h : i ∈ drawText glyph text row col color) : ∃ x y, i = .drawPixelPacked x y color := by
  obtain ⟨k, ch, -, hi⟩ := mem_drawText.mp h
  obtain ⟨gr, gc, -, -, -, -, -, -, -, rfl⟩ := mem_drawChar.mp hi
  exact ⟨_, _, rfl⟩

/-- Every coordinate of the panel fits `i16`, so a string draws all its lit pixels there. -/
theorem inPanel_mem_drawText {glyph : Glyph} {text : List Char} {row col : Int} {color : Packed} {px py : Nat}
    (hx : px < 32) (hy : py < 8) :
    .drawPixelPacked px py color ∈ drawText glyph text row col color ↔
      ∃ (k : Nat) (ch : Char) (gr gc : Nat), text[k]? = some ch ∧ gr < 6 ∧ gc < 4 ∧ glyph ch gr gc = true ∧
        (px : Int) = col + 5 * k + gc ∧ (py : Int) = row + gr := by
  simp only [mem_drawText, mem_drawChar, Instr.drawPixelPacked.injEq, and_true]
  constructor
  · rintro ⟨k, ch, hk, gr, gc, hr, hc, hlit, -, -, -, -, hpx, hpy⟩
    exact ⟨k, ch, gr, gc, hk, hr, hc, hlit, hpx, hpy⟩
  · rintro ⟨k, ch, gr, gc, hk, hr, hc, hlit, hpx, hpy⟩
    exact ⟨k, ch, hk, gr, gc, hr, hc, hlit, by omega, by omega, by omega, by omega, hpx, hpy⟩

/-! ### What a scroll step leaves in `FB` (R143, R147, R148) -/

theorem storedTriple_plot {px py : Nat} (hx : px < 32) (hy : py < 8) (s : State) (x y : Int) (r g b : Byte) :
    State.storedTriple { s with fb := plot s.fb x y r g b } (map px py) =
      if px = x ∧ py = y then [g, r, b] else s.storedTriple (map px py) := by
  split
  · next heq =>
    obtain ⟨rfl, rfl⟩ := heq
    exact storedTriple_plot_same ((inBounds_iff _ _).mpr (by omega)) s r g b
  · next hne =>
    cases hin : inBounds x y with
    | false => rw [plot_of_not_inBounds hin]
    | true =>
      have hbounds := (inBounds_iff x y).mp hin
      refine storedTriple_plot_of_ne (map_ne_map (by omega) hy fun h => hne ?_) s r g b
      obtain ⟨hpx, hpy⟩ := Prod.mk.inj h
      omega

theorem storedTriple_fill {p : Nat} (hp : p < 256) (s : State) (v : Byte) :
    State.storedTriple { s with fb := Memory.fill v } p = [v, v, v] := by
  have hbyte {a : Nat} (ha : a < 768) : State.fbByte { s with fb := Memory.fill v } a = v := by
    simp [State.fbByte, ha]
  rw [State.storedTriple_eq, hbyte (by omega), hbyte (by omega), hbyte (by omega)]

theorem flushed_storedTriple (s : State) (p : Nat) : (flushed s).storedTriple p = s.storedTriple p := by
  simp only [State.storedTriple_eq, flushed_fbByte]

/-- `SHOW` sends what it leaves in `TXBUF` (R148). -/
theorem flushed_wire_txbuf (s : State) :
    (flushed s).wire = s.wire ++ transmitSymbols ((flushed s).memReadTx 0 768) := by
  have hbyte : (flushed s).txByte = (copyScaled s).txByte := funext (sdTransmit_txByte _ _)
  rw [flushed_wire, flushSymbols, State.memReadTx, State.memReadTx, hbyte]

/-- Packed pixels of one colour, one after another: all have the same colour, so their order shows nowhere. -/
theorem issueAll_packed {color : Packed} {draws : List Instr}
    (hdraws : ∀ i ∈ draws, ∃ x y, i = .drawPixelPacked x y color) {s : State} (hidle : s.idleReady)
    (after : List Instr) :
    ∃ m : Memory, issueAll (draws ++ after) s = issueAll after { s with fb := m } ∧
      ∀ px py : Nat, px < 32 → py < 8 → State.storedTriple { s with fb := m } (map px py) =
        if .drawPixelPacked px py color ∈ draws then [packedGreen color, packedRed color, packedBlue color]
        else s.storedTriple (map px py) := by
  induction draws generalizing s with
  | nil => exact ⟨s.fb, rfl, fun _ _ _ _ => (if_neg List.not_mem_nil).symm⟩
  | cons i rest ih =>
    obtain ⟨⟨x, y, rfl⟩, hrest⟩ := List.forall_mem_cons.mp hdraws
    have heffect := CommandEffect.drawPixelPacked x y color hidle
    obtain ⟨m, hissue, htriple⟩ := ih hrest (heffect.idleReady hidle.cmdReady)
    refine ⟨m, (issueAll_cons heffect hidle.cmdReady _).trans hissue, fun px py hx hy => ?_⟩
    rw [htriple px py hx hy, storedTriple_plot hx hy, ← ite_or]
    simp only [List.mem_cons, Instr.drawPixelPacked.injEq, and_true, or_comm]

/-! ### The count down of `x` (R193, R196) -/

theorem scrollNext_of_gt {text : List Char} {x : Int} (h : -(5 * (text.length : Int)) < x) :
    scrollNext text x = x - 1 := if_neg (by rw [textWidth]; omega)

theorem scrollNext_at_end (text : List Char) : scrollNext text (-(5 * (text.length : Int))) = 32 :=
  if_pos (by rw [textWidth]; omega)

theorem scrollNext_iterate {text : List Char} {k : Nat} (hk : k ≤ 5 * text.length + 32) :
    (scrollNext text)^[k] 32 = 32 - (k : Int) := by
  induction k with
  | zero => rfl
  | succ k ih =>
    rw [Function.iterate_succ_apply', ih (by omega), scrollNext_of_gt (by omega)]
    omega

end Sys2Proof.Machine

open Sys2Proof Sys2Proof.Machine

/-- Settles O57: a command names its row and its column, and an unsupported character has no lit pixel. -/
theorem drawCharIssuesTheLitPixels : Obligations.DrawCharIssuesTheLitPixels := by
  unfold Obligations.DrawCharIssuesTheLitPixels
  refine fun glyph ch row col color => ⟨drawChar_nodup glyph ch row col color, fun _ => mem_drawChar, fun h => ?_⟩
  refine List.eq_nil_iff_forall_not_mem.mpr fun i hi => ?_
  obtain ⟨gr, gc, -, -, hlit, -⟩ := mem_drawChar.mp hi
  rw [hostGlyph_of_unsupported h] at hlit
  cases hlit

/-- Settles O58: `CLEAR` zeroes `FB`, the string's commands write one colour, and `SHOW` sends the frame without
writing `FB`. -/
theorem scrollStepDrawsTheString : Obligations.ScrollStepDrawsTheString := by
  unfold Obligations.ScrollStepDrawsTheString
  intro glyph text row x color s hidle
  have hclear := CommandEffect.clear hidle
  have hidle' := hclear.idleReady hidle.cmdReady
  obtain ⟨m, hissue, htriple⟩ := issueAll_packed (draws := drawText glyph text row x color)
    (fun _ => eq_packed_of_mem_drawText) hidle' [.showFrame]
  have hshow : State.idleReady { s with fb := m } := hidle
  refine ⟨flushed { s with fb := m }, ?_, by simp, flushed_wire_txbuf _, fun px py hx hy => ?_⟩
  · rw [scrollStep, List.cons_append, issueAll_cons hclear hidle.cmdReady, hissue,
      issueAll_cons (.showFrame hshow) hshow.cmdReady, issueAll]
  · rw [flushed_storedTriple, htriple px py hx hy, storedTriple_fill (map_lt hx), ← inPanel_mem_drawText hx hy]
    exact ⟨fun h => if_pos h, fun h => if_neg h⟩

/-- Settles O59: `x` falls by 1 down to `-w`, where the test of R193 turns it back to 32. -/
theorem scrollCycle : Obligations.ScrollCycle := by
  unfold Obligations.ScrollCycle
  refine fun text => ⟨fun k => scrollNext_iterate, ?_, fun x hlow hhigh => ?_⟩
  · have hend : (32 : Int) - ((5 * text.length + 32 : Nat) : Int) = -(5 * (text.length : Int)) := by omega
    rw [Function.iterate_succ_apply', scrollNext_iterate le_rfl, hend, scrollNext_at_end]
  · rcases hlow.eq_or_lt with rfl | hlt
    · rw [scrollNext_at_end]
      omega
    · rw [scrollNext_of_gt hlt]
      omega

end

section
/-! PROOFS. What the spec refuses and what it masks (60_exceptions.md): an offer at a ready block is taken up by its
decoded word (R79, R152), so a step is a next state or one of the two refusals of R201; and no move of the block
writes the host's interrupt enable (R206). -/

namespace Sys2Proof.Machine

/-! ### An offer at a ready block (R23, R79) -/

theorem step_of_acceptedEdge {s : State} {w : CmdWord} {rest : List Stimulus} {i : Instr}
    (hs : s.stimuli = .edge false true w :: rest) (hr : s.cmdReady = true) (hw : decodeWord w = .ok i) :
    step s = acceptNow i { s with stimuli := rest } := by
  have hr' : State.cmdReady { s with stimuli := rest } = true := hr
  simp [step, hs, portEdge, hr', hw, acceptEdge, whenReady_of_ready]

/-- At level S an offer that decodes is run whole, at level C it is taken up at the edge (R8). -/
theorem step_of_offered {s : State} {w : CmdWord} {i : Instr} (ho : s.offers w) (hr : s.cmdReady = true)
    (hw : decodeWord w = .ok i) :
    ∃ rest, step s = exec i { s with stimuli := rest } ∨ step s = acceptNow i { s with stimuli := rest } := by
  obtain ⟨rest, hs | hs⟩ := ho
  · exact ⟨rest, .inl (step_of_issued hs hr hw)⟩
  · exact ⟨rest, .inr (step_of_acceptedEdge hs hr hw)⟩

theorem step_of_reserved {s : State} {w : CmdWord} {op : BitVec 4} (ho : s.offers w) (hr : s.cmdReady = true)
    (hw : decodeWord w = .error (.reservedOpcode op)) : step s = .refused (.reservedOpcode op) := by
  obtain ⟨rest, hs | hs⟩ := ho
  · simp [step, hs, hr, runCommand, hw]
  · have hr' : State.cmdReady { s with stimuli := rest } = true := hr
    simp [step, hs, portEdge, hr', hw]

/-! ### The accepting edge is refused where the command is (R152) -/

theorem acceptNow_of_unbound {i : Instr} {s : State} (hm : s.mode = .unbound) (hb : s.busy = 0)
    (hi : ∀ pin, i ≠ .panelInit pin) : acceptNow i s = .refused (.notConstructed i.mnemonic) := by
  by_cases hshow : i = .showFrame
  · subst hshow
    exact whenConstructed_of_unbound hm hb _ _
  · rw [acceptNow_of_ne_showFrame hshow, exec_of_unbound hm hb hi, completeAtEdge]

theorem CommandEffect.exists_acceptNow_eq {i : Instr} {s t : State} (h : CommandEffect s i t)
    (hr : s.cmdReady = true) : ∃ u, acceptNow i s = .next u := by
  by_cases hshow : i = .showFrame
  · subst hshow
    cases h with
    | showFrame hs => exact ⟨_, whenConstructed_of_idleReady hs _ _⟩
  · exact ⟨_, by rw [acceptNow_of_ne_showFrame hshow, h.exec_eq hr, completeAtEdge]⟩

/-! ### The outcomes of a step (R200, R201) -/

theorem step_of_not_accepting {s : State} (h : s.cmdReady = false ∨ ∀ w, ¬ s.offers w) : ∃ t, step s = .next t := by
  match hs : s.stimuli with
  | [] => exact ⟨_, by rw [step, hs]⟩
  | .hostIe _ :: _ => exact ⟨_, by rw [step, hs]⟩
  | .edge true _ _ :: _ => exact ⟨_, step_of_resetEdge hs⟩
  | .edge false false w :: rest => exact ⟨clockEdge { s with stimuli := rest }, by simp [step, hs, portEdge]⟩
  | .command w :: rest =>
    have hr : s.cmdReady = false := h.resolve_right fun hno => hno w ⟨rest, .inl hs⟩
    exact ⟨clockEdge s, by simp [step, hs, hr]⟩
  | .edge false true w :: rest =>
    have hr : State.cmdReady { s with stimuli := rest } = false := h.resolve_right fun hno => hno w ⟨rest, .inr hs⟩
    exact ⟨clockEdge { s with stimuli := rest }, by simp [step, hs, portEdge, hr]⟩

theorem step_of_unbound {s : State} {w : CmdWord} {i : Instr} (ho : s.offers w) (hr : s.cmdReady = true)
    (hw : decodeWord w = .ok i) (hm : s.mode = .unbound) (hi : ∀ pin, i ≠ .panelInit pin) :
    step s = .refused (.notConstructed i.mnemonic) := by
  have hb : s.busy = 0 := (s.cmdReady_iff.mp hr).2
  obtain ⟨rest, hstep | hstep⟩ := step_of_offered ho hr hw
  · exact hstep.trans (exec_of_unbound hm hb hi)
  · exact hstep.trans (acceptNow_of_unbound hm hb hi)

/-- At the default `PinSupported` (log entry 12). -/
theorem step_of_meaningful {s : State} {w : CmdWord} {i : Instr} (ho : s.offers w) (hr : s.cmdReady = true)
    (hw : decodeWord w = .ok i) (hi : s.mode = .unbound → ∃ pin, i = .panelInit pin) : ∃ t, step s = .next t := by
  obtain ⟨rest, hstep⟩ := step_of_offered ho hr hw
  obtain ⟨t, ht⟩ := exists_commandEffect (s := { s with stimuli := rest }) hr hi
  obtain hstep | hstep := hstep <;> rw [hstep]
  · exact ⟨t, ht.exec_eq hr⟩
  · exact ht.exists_acceptNow_eq hr

/-! ### The host's interrupt enable (R22, R204, R206) -/

theorem CommandEffect.ieHost_eq {i : Instr} {s t : State} (h : CommandEffect s i t) : t.ieHost = s.ieHost := by
  cases h <;> simp

theorem BlockMove.ieHost_eq {s t : State} (h : BlockMove s t) : t.ieHost = s.ieHost := by
  cases h with
  | untouched => rfl
  | clockEdge => exact clockEdge_ieHost s
  | command _ he => exact he.ieHost_eq
  | commandAtEdge _ he => exact he.ieHost_eq
  | showAtEdge _ => exact startTransmit_ieHost _ _

theorem step_ieHost {s t : State} (hn : ∀ b rest, s.stimuli ≠ .hostIe b :: rest) (h : step s = .next t) :
    t.ieHost = s.ieHost := by
  obtain ⟨_, rfl⟩ | ⟨_, _, _, _, rfl⟩ | ⟨_, rest, _, _, hr, _, he⟩ | ⟨_, _, _, _, rfl⟩ | ⟨_, _, _, _, _, rfl⟩ |
    ⟨_, _, _, _, _, _, he⟩ | ⟨b, rest, hs, _⟩ := step_next h
  · exact clockEdge_ieHost s
  · exact clockEdge_ieHost s
  · exact (commandEffect_of_exec (s := { s with stimuli := rest }) hr he).ieHost_eq
  · exact hardwareReset_ieHost _
  · exact clockEdge_ieHost _
  · exact (blockMove_of_acceptEdge he).ieHost_eq
  · exact absurd hs (hn b rest)

theorem hostMayTakeInterrupt_of_transmitting {s : State} (hm : s.mode.transmitting = true) :
    s.hostMayTakeInterrupt = false := by
  simp [State.hostMayTakeInterrupt, State.irqInhibit, hm]

theorem hostMayTakeInterrupt_of_not_transmitting {s : State} (hm : s.mode.transmitting = false) :
    s.hostMayTakeInterrupt = s.ieHost := by
  simp [State.hostMayTakeInterrupt, State.irqInhibit, hm]

end Sys2Proof.Machine

open Sys2Proof Sys2Proof.Machine

/-- Settles O14, by readiness and offer, then by what the word decodes to, then by the mode. -/
theorem everyStepHasOneOfThreeOutcomes : Obligations.EveryStepHasOneOfThreeOutcomes := by
  unfold Obligations.EveryStepHasOneOfThreeOutcomes
  refine fun s => ⟨step_of_not_accepting, fun w hr ho => ⟨fun e he => ?_, fun i hw => ⟨?_, fun hi => ?_⟩⟩⟩
  · exact step_of_reserved ho hr (decodeWord_error he ▸ he)
  · exact step_of_unbound ho hr hw
  · exact step_of_meaningful ho hr hw hi.neg_resolve_left

/-- Settles O10: of the outcomes of a step (O14) those two are the refusals. -/
theorem stepRefusesExactlyTheMeaninglessWords : Obligations.StepRefusesExactlyTheMeaninglessWords := by
  unfold Obligations.StepRefusesExactlyTheMeaninglessWords
  intro s
  constructor
  · rintro ⟨r, hstep⟩
    have hnext : ¬ ∃ t, step s = .next t := by
      rintro ⟨t, ht⟩
      cases hstep.symm.trans ht
    have hacc : ¬ (s.cmdReady = false ∨ ∀ w, ¬ s.offers w) := fun h => hnext (step_of_not_accepting h)
    obtain ⟨hr, w, ho⟩ : s.cmdReady = true ∧ ∃ w, s.offers w := by simpa using hacc
    refine ⟨hr, w, ho, ?_⟩
    cases hw : decodeWord w with
    | error e => exact .inl ⟨opcodeField w, by rw [decodeWord_error hw]⟩
    | ok i =>
      have hi : ¬ (s.mode = .unbound → ∃ pin, i = .panelInit pin) := fun h => hnext (step_of_meaningful ho hr hw h)
      exact .inr (by simpa using hi)
  · rintro ⟨hr, w, ho, ⟨op, hw⟩ | ⟨hm, i, hw, hi⟩⟩
    · exact ⟨_, step_of_reserved ho hr hw⟩
    · exact ⟨_, step_of_unbound ho hr hw hm hi⟩

/-- Settles O55: the block's moves leave `IE_host` alone, and `irq_inhibit` is the mode's. -/
theorem interruptBracket : Obligations.InterruptBracket := by
  unfold Obligations.InterruptBracket
  exact fun s t h =>
    ⟨fun hn => step_ieHost hn h, hostMayTakeInterrupt_of_transmitting, hostMayTakeInterrupt_of_not_transmitting⟩

end

section
/-! PROOFS. What a reset edge leaves (70_reset_and_hazards.md): `UNBOUND` with nothing left to wait for, so the port is
ready and the host's interrupts are not inhibited (R27, R230). -/

namespace Sys2Proof.Machine

@[simp] theorem hardwareReset_cmdReady (s : State) : (hardwareReset s).cmdReady = true :=
  (State.cmdReady_iff _).mpr ⟨.inl (hardwareReset_mode s), hardwareReset_busy s⟩

@[simp] theorem hardwareReset_irqInhibit (s : State) : (hardwareReset s).irqInhibit = false := by
  rw [State.irqInhibit, hardwareReset_mode, Mode.transmitting]

end Sys2Proof.Machine

open Sys2Proof Sys2Proof.Machine

/-- Settles O15: the edge is a hardware reset whatever the state (R205), and keeps only what is the outside world's. -/
theorem resetEdgeGivesTheResetState : Obligations.ResetEdgeGivesTheResetState := by
  unfold Obligations.ResetEdgeGivesTheResetState
  intro s valid w rest hs
  exact ⟨_, step_of_resetEdge hs, hardwareReset_mode _, hardwareReset_dout _, hardwareReset_cmdReady _,
    hardwareReset_irqInhibit _, hardwareReset_wire _, hardwareReset_trace _, hardwareReset_ieHost _,
    hardwareReset_stimuli _⟩

end
